-- ==== Sys2Proof/Word.lean ====
section
/-! DEFINITION. Bytes and sectors, the two sizes of data the block moves
(00_scope.md R6, R7, R15). -/

namespace Sys2Proof

/-- A byte is 8 bits (R7). -/
abbrev Byte := BitVec 8

/-- One sector's worth of data, exactly 8 bytes, `b0` first (R6, R24, R43). -/
structure Sector where
  b0 : Byte
  b1 : Byte
  b2 : Byte
  b3 : Byte
  b4 : Byte
  b5 : Byte
  b6 : Byte
  b7 : Byte
  deriving DecidableEq, Repr, Inhabited

/-- The sector whose eight bytes are all `v`. -/
def Sector.fill (v : Byte) : Sector := ⟨v, v, v, v, v, v, v, v⟩

end Sys2Proof
end

