-- ==== Sys2Proof/Config.lean ====
section
/-! DEFINITION. What an implementation fixes (the named parameters of 00_scope.md section 3)
and the free values the spec leaves open (93_implementation_defined.md part 1). -/

namespace Sys2Proof

/-- The host-side registers other than SB (10_state.md section 2). -/
inductive HostReg where
  | cmd
  | port
  | status
  | pollcnt
  | pollLimit
  deriving DecidableEq, Repr

/-- What a host-bus address can name: a host-side register, or one byte of SB (10_state.md
section 2). -/
inductive HostPlace where
  | reg (r : HostReg)
  | sb (k : Fin 8)
  deriving DecidableEq, Repr

/-- The named parameters of 00_scope.md (R8, R9, R11 to R14) and HOST_MAP (20_memory.md R51). They
are not state of the block (R47); the machine's State carries one `Params` that no step changes, so
that a statement about every state holds for every value of them (log 4). -/
structure Params where
  /-- ADDR_PWD, the password register's address (R8). -/
  addrPwd : Byte
  /-- ADDR_CTRL0 (R8). -/
  addrCtrl0 : Byte
  /-- ADDR_RWBUF, the shared data register's address (R8). -/
  addrRwbuf : Byte
  /-- PWD_UNLOCK (R9). -/
  pwdUnlock : Byte
  /-- EXIT_CTRL0, default 0x40 (R11). -/
  exitCtrl0 : Byte
  /-- ERASED_BYTE, what an erased NVM byte reads as (R14). -/
  erasedByte : Byte
  /-- PORT_W, the width of the port identifier (R12). -/
  portW : Nat
  /-- POLLCNT_W, the width of the poll counters, default 32 (R13). -/
  pollcntW : Nat
  /-- CLEANUP_ON_ERROR, a parameter of the host's sessions, default false (R14). -/
  cleanupOnError : Bool
  /-- HOST_MAP, the host-bus address map, an address with what it names (20_memory.md R51;
  log 24). -/
  hostMap : List (Nat × HostPlace)
  deriving DecidableEq, Repr

/-- ADDR_CTRL1 = ADDR_CTRL0 + 1 (R8). DESIGN CHOICE (log 29): the sum is of ADDR_W = 8 bits, so with
ADDR_CTRL0 = 0xFF it is 0x00; the spec neither says so nor excludes that value. -/
def Params.addrCtrl1 (p : Params) : Byte := p.addrCtrl0 + 1

/-- What the spec requires of the parameters: PORT_W is at least 1 (R12); the four registers
stand at four addresses (R49); EXIT_CTRL0 sets neither SOS nor bit 3 (R79, R85), is no submit
(R41), has a SECT field of 0 (R85) and leaves the power-enable bit 7 clear (R160), so that it is 0x40
or 0x00. ADDR_CTRL0 = 0xFF is admitted (log 29). DESIGN CHOICE (log 34): PWD_UNLOCK = 0x00, which is
PWD_LOCK, is admitted too; no rule excludes it, and ExitTestMode then locks nothing. -/
abbrev Params.Valid (p : Params) : Prop :=
  1 ≤ p.portW ∧ p.addrPwd ≠ p.addrCtrl0 ∧ p.addrPwd ≠ p.addrCtrl1 ∧ p.addrPwd ≠ p.addrRwbuf ∧
    p.addrRwbuf ≠ p.addrCtrl0 ∧ p.addrRwbuf ≠ p.addrCtrl1 ∧ p.exitCtrl0 &&& 0xBF#8 = 0#8

/-- The parameters State.reset carries. PRESUMED (log 4): addresses and unlock constant of the
STUSB4500 family, recorded as G1 in 93_implementation_defined.md. DESIGN CHOICE (log 4): PORT_W
and ERASED_BYTE. HOST_MAP names no address (log 24). The spec's defaults: EXIT_CTRL0, POLLCNT_W,
CLEANUP_ON_ERROR. -/
def Config.defaults : Params where
  addrPwd := 0x95#8
  addrCtrl0 := 0x96#8
  addrRwbuf := 0x53#8
  pwdUnlock := 0x47#8
  exitCtrl0 := 0x40#8
  erasedByte := 0x00#8
  portW := 8
  pollcntW := 32
  cleanupOnError := false
  hostMap := []

/-- PWD_LOCK = 0x00 (R9). -/
def Config.pwdLock : Byte := 0x00#8

/-- What a byte of memory that nothing has written reads as. DESIGN CHOICE (log 7, log 18),
unsafe: the spec gives neither the NVM's stored configuration nor the host's storage. -/
def Config.unlistedByte : Byte := 0x00#8

/-- One move of the environment toward the engine (R37, R38, R169): withhold, answer `ok` (a read
of n bytes returns the first n of `data`), or answer `error`. -/
inductive EnvMove where
  | hold
  | ok (data : Sector)
  | error
  deriving DecidableEq, Repr, Inhabited

/-- FREE VALUE (log 3): what the unconstrained environment does at draw `n` (R37: "a draw, under
no law"). -/
opaque Config.envDraw : Nat → EnvMove

/-- FREE VALUE (log 3): eight bytes no rule gives. -/
opaque Config.freeSector : Nat → Sector

/-- FREE VALUE (log 3): a byte no rule gives. -/
opaque Config.freeByte : Nat → Byte

/-- FREE VALUE (log 3): five flags no rule gives. -/
opaque Config.freeMask : Nat → BitVec 5

/-- FREE VALUE (log 3): an opcode in progress, or none, where no rule gives which. -/
opaque Config.freeOpcode : Nat → Option (BitVec 3)

/-- FREE VALUE (log 3): a flag no rule gives. -/
opaque Config.freeFlag : Nat → Bool

end Sys2Proof
end

