-- ==== Sys2Proof/Syntax.lean ====
section
/-! DEFINITION. The instructions: one constructor per row of spec/opcode_table.json. The CMD rows
are the engine's commands (30_encoding.md R73), the CTRL1 rows the controller's FTP opcodes
(R83), and the five RESERVED_CMD rows the words the block rejects (R76, R84). -/

namespace Sys2Proof

/-- One constructor per row of the opcode table. -/
inductive Instr where
  /-- EWM: EnterWriteMode(m), m the erase mask (R108). -/
  | ewm (m : BitVec 5)
  /-- ERM: EnterReadMode (R111). -/
  | erm
  /-- ETM: ExitTestMode (R112). -/
  | etm
  /-- RDS: ReadSector(i); an index above 4 is rejected (R114, R75). -/
  | rds (i : BitVec 5)
  /-- WRS: WriteSector(i); an index above 4 is rejected (R117, R75). -/
  | wrs (i : BitVec 5)
  /-- OP_READ with CTRL_1's SER field (R135). -/
  | opRead (ser : BitVec 5)
  /-- OP_WRITE_PL (R136). -/
  | opWritePl (ser : BitVec 5)
  /-- OP_WRITE_SER (R137). -/
  | opWriteSer (ser : BitVec 5)
  /-- OP_READ_PL (R138). -/
  | opReadPl (ser : BitVec 5)
  /-- OP_READ_SER (R139). -/
  | opReadSer (ser : BitVec 5)
  /-- OP_ERASE_SECTORS (R140). -/
  | opEraseSectors (ser : BitVec 5)
  /-- OP_PROG_SECTOR (R141). -/
  | opProgSector (ser : BitVec 5)
  /-- OP_SOFT_PROG (R142). -/
  | opSoftProg (ser : BitVec 5)
  /-- RESERVED_CMD, code 0 (R84). -/
  | reservedCode0 (x : BitVec 5)
  /-- RESERVED_CMD, code 6 (R84). -/
  | reservedCode6 (x : BitVec 5)
  /-- RESERVED_CMD, code 7 (R84). -/
  | reservedCode7 (x : BitVec 5)
  /-- RESERVED_CMD, code 2 with a nonzero ARG (R76). -/
  | ermArg (a : BitVec 5)
  /-- RESERVED_CMD, code 3 with a nonzero ARG (R76). -/
  | etmArg (a : BitVec 5)
  deriving DecidableEq, Repr

end Sys2Proof
end

