-- ==== Sys2Proof/Machine/State.lean ====
section
/-! DEFINITION. The state of the machine as plain data: the block's registers and engine
(10_state.md), the controllers behind the transport (45_ftp_opcodes.md R130), the host with its
program and storage (44_session_programs.md), and what fixes the order of their moves. -/

namespace Sys2Proof.Machine

/-- Bytes by address, in one canonical form: addresses strictly rising, no byte equal to
`Config.unlistedByte`. -/
abbrev Memory := List Host.Cell

/-- The direction of a transaction (R36). -/
inductive Dir where
  | rd
  | wr
  deriving DecidableEq, Repr

/-- A transaction request (R36). `wdata` is empty for a read. -/
structure Request where
  port : Nat
  dir : Dir
  addr : Byte
  len : Nat
  wdata : List Byte
  deriving DecidableEq, Repr

/-- A transaction response (R37). `rdata` is empty for a write. -/
inductive Response where
  | ok (rdata : List Byte)
  | error
  deriving DecidableEq, Repr

/-- One entry of the trace (R48): a transaction presented, with its response; no response for one
that a block reset dropped (R162). -/
structure TraceEntry where
  req : Request
  resp : Option Response
  deriving DecidableEq, Repr

/-- PHASE (R30). -/
inductive Phase where
  | idle
  | issue
  | wait
  deriving DecidableEq, Repr

/-- The RESULT codes (R144). -/
inductive ResultCode where
  | ok
  | transportError
  | argError
  | illegalCommand
  | timeoutError
  deriving DecidableEq, Repr

/-- The micro-ops of a script (R90, R96 to R99). -/
inductive MicroOp where
  | w1 (addr v : Byte)
  | w2 (addr v0 v1 : Byte)
  | w8sb (addr : Byte)
  | r8sb (addr : Byte)
  | poll (addr : Byte)
  deriving DecidableEq, Repr

/-- The reference controller of one port (R130). -/
structure Controller where
  /-- The password register PWD (R39). -/
  pwd : Byte
  /-- C0, the last accepted CTRL_0 value (R40). -/
  c0 : Byte
  /-- C1, the last accepted CTRL_1 value (R42). -/
  c1 : Byte
  /-- RW, the shared data register (R43). -/
  rw : Sector
  /-- PL, the program-load storage. -/
  pl : Sector
  /-- SER, the sector-erase mask. -/
  ser : BitVec 5
  /-- SOFT: a soft-program has completed since the last write-SER. -/
  soft : Bool
  /-- ERASED, bit i for sector i. -/
  erased : BitVec 5
  /-- BUSYOP, the opcode in progress. -/
  busyop : Option (BitVec 3)
  /-- NVM, byte k of sector i at address 8*i + k. -/
  nvm : Memory
  deriving DecidableEq, Repr

/-- A controller at power-up: the family's register values where the spec gives none (PRESUMED,
log 7); an NVM whose stored configuration is not given (DESIGN CHOICE, log 7). -/
def Controller.powerUp : Controller where
  pwd := 0#8
  c0 := 0#8
  c1 := 0#8
  rw := Sector.fill 0#8
  pl := Sector.fill 0#8
  ser := 0#5
  soft := false
  erased := 0#5
  busyop := none
  nvm := []

/-- How a host program ended: OK, the RESULT code of a failed CHECK, or the host-side
CapacityError (R124, R125, R128). -/
inductive HostCode where
  | ok
  | failed (r : ResultCode)
  | capacityError
  deriving DecidableEq, Repr

/-- One action of the host (R88), and the single-register accesses of 10_state.md section 2. -/
inductive HostAction where
  /-- A write of CMD (R21). -/
  | cmd (c : Byte)
  /-- `PORT p` (R23). -/
  | port (p : Nat)
  /-- `LIMIT L` (R29). -/
  | limit (l : Nat)
  /-- A write to a read-only register, STATUS or POLLCNT (R25, R28). -/
  | writeReadOnly (v : Nat)
  /-- A read of a register into `hostRead`. -/
  | read (r : HostReg)
  /-- `LDSB`, all eight bytes. -/
  | ldsb (x : Sector)
  /-- A write of SB[k] alone (R24). -/
  | writeSb (k : Fin 8) (v : Byte)
  /-- `STSB -> dst`, SB[0..7] into host storage. -/
  | stsb (dst : Nat)
  /-- `STSB -> stage[k..k+8)`, SB[0..7] into the local staging area (R125). -/
  | stsbStage (k : Nat)
  /-- A read of SB[k] alone into `hostRead` (R24). -/
  | readSb (k : Fin 8)
  /-- `WAIT`: hold until BUSY = 0. -/
  | wait
  /-- `CHECK`; with `cleanup`, a failure issues ExitTestMode once before the program stops (R127). -/
  | check (cleanup : Bool)
  /-- Host storage to host storage, `dst[0..n) <- src` (R125). -/
  | copy (dst src n : Nat)
  /-- The staging area to host storage, `dst[0..40) <- stage` (R125). -/
  | copyStage (dst : Nat)
  /-- The host program ends with a code. -/
  | ret (c : HostCode)
  /-- The block's reset input (R161, R162). -/
  | reset
  /-- A host-bus write at an address of HOST_MAP (20_memory.md R51; log 24). -/
  | writeAt (a v : Nat)
  /-- A host-bus read at an address of HOST_MAP, into `hostRead` (20_memory.md R51; log 24). -/
  | readAt (a : Nat)
  deriving DecidableEq, Repr

/-- Who makes the next move. The engine moves only when one of these two does. -/
inductive Agent where
  | host
  | env
  deriving DecidableEq, Repr

/-- Which environment answers when no move of it is fixed (R37; 45_ftp_opcodes.md). -/
inductive EnvMode where
  | reference
  | free
  deriving DecidableEq, Repr

/-- The model faults, which no step clears (R148, R165). -/
structure Recorded where
  /-- PORT was read while unwritten: a command was accepted (R23), or the host read it (93 U14). -/
  portUnwritten : Bool
  /-- A W8SB was presented while an SB byte was unwritten (R97). -/
  sbUnwritten : Bool
  /-- The host read an unwritten SB byte (R24). -/
  sbReadUnwritten : Bool
  /-- The host read SB while the engine was busy (R165). -/
  sbReadBusy : Bool
  deriving DecidableEq, Repr

/-- Nothing recorded. -/
def Recorded.none : Recorded := ⟨false, false, false, false⟩

/-- Why the machine stops with a fault. Both are raised by the environment's turn in
Machine/Turn.lean, in states no run from reset reaches; safe. -/
inductive Fault where
  /-- PHASE is ISSUE or WAIT and SP is outside SCRIPT (R102: "SP is always in range"). Safe. -/
  | scriptOverrun
  /-- PHASE is WAIT and OUT is empty (R35). Safe. -/
  | noOutstanding
  deriving DecidableEq, Repr

/-- Why there is no meaning. -/
inductive Refusal where
  /-- Raised by exec's arm of an instruction that has no meaning yet. Safe. -/
  | notModelled (mnemonic : String)
  /-- Raised by execOpReadPl: "Reference effect: unspecified; the reference model refuses it"
  (R138). Safe. -/
  | readPlUnspecified
  /-- Raised by execOpReadSer: "Reference effect: unspecified; the reference model refuses it"
  (R139). Safe. -/
  | readSerUnspecified
  /-- Raised by the environment's turn: a CTRL_0 write with SOS or bit 3 set reaches the reference
  controller (93 U10). Safe. -/
  | ctrl0BitsUnspecified
  /-- Raised by the host's turn: a write of SB while BUSY = 1, "refused in the model (no step)"
  (R165, D19, 93 U15; log 8). Safe. -/
  | sbWriteBusy
  /-- Raised by the host's turn: a host-bus access at an address HOST_MAP gives nothing at
  (20_memory.md R51; log 24). Safe. -/
  | hostAddressUnmapped
  deriving DecidableEq, Repr

/-- The machine. -/
structure State where
  /-- The model's parameters, changed by no step (00_scope.md section 3; log 4). -/
  params : Params
  /-- CMD, the command word last written while the block was ready (R22). -/
  cmd : Byte
  /-- PORT (R23). -/
  port : Nat
  /-- PORT has been written since reset (R23). -/
  portWritten : Bool
  /-- SB[0..7] (R24). -/
  sb : Sector
  /-- Bit k: SB[k] has been written since reset (R24). -/
  sbWritten : BitVec 8
  /-- RESULT, STATUS[3:1] (R27). -/
  result : ResultCode
  /-- POLLCNT (R28). -/
  pollcnt : Nat
  /-- POLL_LIMIT (R29). -/
  pollLimit : Nat
  /-- PHASE; BUSY = 1 exactly while it is not IDLE (R26, R30). -/
  phase : Phase
  /-- SCRIPT (R31). -/
  script : List MicroOp
  /-- SP, the block's program counter (R32). -/
  sp : Nat
  /-- PLC (R33). -/
  plc : Nat
  /-- LCMD (R34). -/
  lcmd : Byte
  /-- LPORT (R34). -/
  lport : Nat
  /-- OUT (R35). -/
  out : Option Request
  /-- The controllers by port, ports strictly rising; a port not listed holds
  `Controller.powerUp` (R50, R130). -/
  ctrls : List (Nat × Controller)
  /-- The host's actions still to come (R88). -/
  prog : List HostAction
  /-- The host's storage (R88, R125). -/
  hostMem : Memory
  /-- READ's local staging area, 40 bytes from address 0 (R125); no other host action reaches it. -/
  stage : Memory
  /-- What the host's last register read returned. -/
  hostRead : Nat
  /-- How the host's program ended. -/
  hostResult : Option HostCode
  /-- The order of the next moves, where it is fixed (log 1). -/
  sched : List Agent
  /-- Which environment answers where no move of it is fixed (log 2). -/
  envMode : EnvMode
  /-- The environment's next moves, where they are fixed; `none` leaves one transaction to
  `envMode` (log 3). -/
  answers : List (Option EnvMove)
  /-- Counter of the free values (log 3). -/
  draws : Nat
  /-- The trace, oldest first (R48). -/
  trace : List TraceEntry
  /-- The model faults recorded (R148). -/
  recorded : Recorded
  deriving DecidableEq, Repr

/-- The machine right after reset (R161): idle, STATUS 0x00, POLLCNT 0, POLL_LIMIT 0, SP 0, PLC 0,
OUT empty; CMD, LCMD, PORT, LPORT and SB unwritten, at the values of log 5; the controllers at
power-up (log 7); no host action to come. -/
def State.reset : State where
  params := Config.defaults
  cmd := 0#8
  port := 0
  portWritten := false
  sb := Sector.fill 0#8
  sbWritten := 0#8
  result := .ok
  pollcnt := 0
  pollLimit := 0
  phase := .idle
  script := []
  sp := 0
  plc := 0
  lcmd := 0#8
  lport := 0
  out := none
  ctrls := []
  prog := []
  hostMem := []
  stage := []
  hostRead := 0
  hostResult := none
  sched := []
  envMode := .reference
  answers := []
  draws := 0
  trace := []
  recorded := Recorded.none

end Sys2Proof.Machine
end

