-- ==== Sys2Proof/Machine/Flags.lean ====
section
/-! DEFINITION. The block's flags: STATUS with BUSY and RESULT (10_state.md R25 to R27, R46), and
the two saturating poll counters (R28, R33). -/

namespace Sys2Proof.Machine

/-- The RESULT codes of R144. -/
def ResultCode.code : ResultCode → BitVec 3
  | .ok => 0
  | .transportError => 1
  | .argError => 2
  | .illegalCommand => 3
  | .timeoutError => 4

/-- BUSY = 1 exactly while PHASE ≠ IDLE (R26). -/
def busy (s : State) : Bool := s.phase != .idle

/-- STATUS[0] = BUSY, STATUS[3:1] = RESULT, STATUS[7:4] = 0 (R25). -/
def status (s : State) : Byte :=
  (s.result.code.setWidth 8 <<< 1) ||| (BitVec.ofBool (busy s)).setWidth 8

/-- The largest value of a POLLCNT_W-bit counter. -/
def countMax (p : Params) : Nat := 2 ^ p.pollcntW - 1

/-- `sat`: a counter counted up by one, saturating at 2^POLLCNT_W - 1 (R99). -/
def countUp (p : Params) (n : Nat) : Nat := min (n + 1) (countMax p)

/-- One poll answered `ok`: PLC and POLLCNT count up (R99). -/
def countPoll (s : State) : State :=
  { s with plc := countUp s.params s.plc, pollcnt := countUp s.params s.pollcnt }

/-- The cap of the poll loop is set and reached (R99). -/
def capReached (s : State) : Bool := decide (s.pollLimit ≠ 0 ∧ s.pollLimit ≤ s.plc)

end Sys2Proof.Machine
end

