-- ==== Sys2Proof/WellFormed.lean ====
section
/-! DEFINITION. Which terms of Instr stand for a word (`wf`), and which are words the block runs a
script for or the controller may be given (`legal`; 30_encoding.md R74 to R77, R87). -/

namespace Sys2Proof

/-- The term stands for a word of its row. Only the two rows "nonzero ARG" have a check: with
ARG = 0 the words 0x02 and 0x03 are ERM and ETM (R76). -/
def Instr.wf : Instr → Bool
  | .ewm _ => true
  | .erm => true
  | .etm => true
  | .rds _ => true
  | .wrs _ => true
  | .opRead _ => true
  | .opWritePl _ => true
  | .opWriteSer _ => true
  | .opReadPl _ => true
  | .opReadSer _ => true
  | .opEraseSectors _ => true
  | .opProgSector _ => true
  | .opSoftProg _ => true
  | .reservedCode0 _ => true
  | .reservedCode6 _ => true
  | .reservedCode7 _ => true
  | .ermArg a => a != 0#5
  | .etmArg a => a != 0#5

/-- The command word is one of the 44 the block accepts (R77): an index above 4 carries an illegal
operand (R84) and a reserved word is illegal. An FTP opcode is no command; every CTRL1 word is a
legal value of its register. -/
def Instr.legal : Instr → Bool
  | .ewm _ => true
  | .erm => true
  | .etm => true
  | .rds i => decide (i.toNat ≤ 4)
  | .wrs i => decide (i.toNat ≤ 4)
  | .opRead _ => true
  | .opWritePl _ => true
  | .opWriteSer _ => true
  | .opReadPl _ => true
  | .opReadSer _ => true
  | .opEraseSectors _ => true
  | .opProgSector _ => true
  | .opSoftProg _ => true
  | .reservedCode0 _ => false
  | .reservedCode6 _ => false
  | .reservedCode7 _ => false
  | .ermArg _ => false
  | .etmArg _ => false

end Sys2Proof
end

