-- ==== Sys2Proof/Decode.lean ====
section
/-! DEFINITION. Decoding of the two one-byte formats that carry instructions, CMD and CTRL1
(30_encoding.md R71, R72, R77, R81, R83), and the encoder written from the same tables. The two
formats share all 256 words; which one a word is in is known from where it is written. -/

namespace Sys2Proof

/-- The format a word is in: written by the host to CMD, or by the block to CTRL_1 (R71). -/
inductive Format where
  | cmd
  | ctrl1
  deriving DecidableEq, Repr

/-- Why no instruction was read. Every word decodes in either format, so the only reason is that
there is no word. -/
inductive DecodeError where
  | noWord
  deriving DecidableEq, Repr

/-- Bits 2:0: CODE of a CMD word, the opcode of a CTRL1 word (R72, R81). -/
def fieldLow (b : Byte) : BitVec 3 := b.extractLsb' 0 3

/-- Bits 7:3: ARG of a CMD word, the SER field of a CTRL1 word (R72, R81). -/
def fieldHigh (b : Byte) : BitVec 5 := b.extractLsb' 3 5

/-- The byte with `hi` in bits 7:3 and `lo` in bits 2:0. -/
def packFields (hi : BitVec 5) (lo : BitVec 3) : Byte := hi ++ lo

/-- The FTP opcode values, in the source's listing order (R10, R83). -/
def opcodeRead : BitVec 3 := 0
def opcodeWritePl : BitVec 3 := 1
def opcodeWriteSer : BitVec 3 := 2
def opcodeReadPl : BitVec 3 := 3
def opcodeReadSer : BitVec 3 := 4
def opcodeEraseSectors : BitVec 3 := 5
def opcodeProgSector : BitVec 3 := 6
def opcodeSoftProg : BitVec 3 := 7

/-- Decoding of a command word, total on all 256 (R77). R77's BadIndex is `rds i` and `wrs i` with
i > 4; R77's Illegal is one of the five reserved rows. -/
def decodeCmd (c : Byte) : Instr :=
  match fieldLow c with
  | 1#3 => .ewm (fieldHigh c)
  | 2#3 => if fieldHigh c = 0#5 then .erm else .ermArg (fieldHigh c)
  | 3#3 => if fieldHigh c = 0#5 then .etm else .etmArg (fieldHigh c)
  | 4#3 => .rds (fieldHigh c)
  | 5#3 => .wrs (fieldHigh c)
  | 6#3 => .reservedCode6 (fieldHigh c)
  | 7#3 => .reservedCode7 (fieldHigh c)
  | _ => .reservedCode0 (fieldHigh c)

/-- Decoding of a CTRL_1 byte, total on all 256 (R81, R83). -/
def decodeCtrl1 (b : Byte) : Instr :=
  match fieldLow b with
  | 1#3 => .opWritePl (fieldHigh b)
  | 2#3 => .opWriteSer (fieldHigh b)
  | 3#3 => .opReadPl (fieldHigh b)
  | 4#3 => .opReadSer (fieldHigh b)
  | 5#3 => .opEraseSectors (fieldHigh b)
  | 6#3 => .opProgSector (fieldHigh b)
  | 7#3 => .opSoftProg (fieldHigh b)
  | _ => .opRead (fieldHigh b)

/-- Decoding of one word in a given format. -/
def decodeAs : Format → Byte → Instr
  | .cmd, b => decodeCmd b
  | .ctrl1, b => decodeCtrl1 b

/-- Decoding of the first word of a byte list, with the bytes after it (R86: each encoded item is
one byte). -/
def decode (f : Format) : List Byte → Except DecodeError (Instr × List Byte)
  | [] => .error .noWord
  | b :: rest => .ok (decodeAs f b, rest)

/-- The format of an instruction's row. -/
def formatOf : Instr → Format
  | .ewm _ => .cmd
  | .erm => .cmd
  | .etm => .cmd
  | .rds _ => .cmd
  | .wrs _ => .cmd
  | .opRead _ => .ctrl1
  | .opWritePl _ => .ctrl1
  | .opWriteSer _ => .ctrl1
  | .opReadPl _ => .ctrl1
  | .opReadSer _ => .ctrl1
  | .opEraseSectors _ => .ctrl1
  | .opProgSector _ => .ctrl1
  | .opSoftProg _ => .ctrl1
  | .reservedCode0 _ => .cmd
  | .reservedCode6 _ => .cmd
  | .reservedCode7 _ => .cmd
  | .ermArg _ => .cmd
  | .etmArg _ => .cmd

/-- The word of an instruction, from the tables of R73, R77 and R83. -/
def encode : Instr → Byte
  | .ewm m => packFields m 1
  | .erm => 0x02#8
  | .etm => 0x03#8
  | .rds i => packFields i 4
  | .wrs i => packFields i 5
  | .opRead ser => packFields ser opcodeRead
  | .opWritePl ser => packFields ser opcodeWritePl
  | .opWriteSer ser => packFields ser opcodeWriteSer
  | .opReadPl ser => packFields ser opcodeReadPl
  | .opReadSer ser => packFields ser opcodeReadSer
  | .opEraseSectors ser => packFields ser opcodeEraseSectors
  | .opProgSector ser => packFields ser opcodeProgSector
  | .opSoftProg ser => packFields ser opcodeSoftProg
  | .reservedCode0 x => packFields x 0
  | .reservedCode6 x => packFields x 6
  | .reservedCode7 x => packFields x 7
  | .ermArg a => packFields a 2
  | .etmArg a => packFields a 3

/-- The assembler of R87: the CMD word of a legal command mnemonic; it refuses `RDS` and `WRS`
with i > 4, and the reserved words and the FTP opcodes have no mnemonic of their own. -/
def assemble (i : Instr) : Option Byte :=
  if formatOf i = .cmd ∧ i.legal = true then some (encode i) else none

/-- The `n` lowest bytes of `w`, least significant first. -/
def wordBytes : Nat → Nat → List Byte
  | 0, _ => []
  | n + 1, w => BitVec.ofNat 8 w :: wordBytes n (w / 256)

/-- The instruction read from a table word of `nbits` bits. A word alone does not say its format;
it is read as what the host writes to CMD, where the machine fetches its instructions (log 16). -/
def decodeTableWord (nbits w : Nat) : Option Instr :=
  match decode .cmd (wordBytes (nbits / 8) w) with
  | .ok (i, _) => some i
  | .error _ => none

end Sys2Proof
end

