-- ==== Sys2Proof/Machine/Operands.lean ====
section
/-! DEFINITION. Operand forms: the sector index, the bytes of a sector, the CTRL_0 and CTRL_1
codec (30_encoding.md R79, R82; 40_engine_primitives.md R105, R106), and the request a micro-op
presents (R92, R96 to R99). -/

namespace Sys2Proof.Machine

/-- CTRL_0 values of R18 and R79. -/
def ctrl0Clr : Byte := 0x00#8
def ctrl0Arm : Byte := 0xC0#8
def ctrl0SubmitPlain : Byte := 0xE0#8

/-- `ctrl0_submit(i) = 0xE0 | (i & 0x07)` (R106). -/
def ctrl0Submit (i : BitVec 5) : Byte := 0xE0#8 ||| (i.setWidth 8 &&& 0x07#8)

/-- `ctrl1(m, op) = ((m << 3) & 0xF8) | (op & 0x07)` (R105). -/
def ctrl1 (m : BitVec 5) (op : BitVec 3) : Byte :=
  ((m.setWidth 8 <<< 3) &&& 0xF8#8) ||| (op.setWidth 8 &&& 0x07#8)

/-- The sector index is in 0..4 (R75). -/
def indexLegal (i : BitVec 5) : Bool := decide (i.toNat ≤ 4)

/-- `busy(v) = v[5]`: the request flag of a CTRL_0 value (R80). -/
def requestBit (v : Byte) : Bool := v.getLsbD 5

/-- The sector-select field CTRL_0[2:0] (R78). -/
def sectorSelect (v : Byte) : Nat := (v.extractLsb' 0 3).toNat

/-- The eight bytes of a sector, byte 0 first (R53). -/
def sectorBytes (x : Sector) : List Byte := [x.b0, x.b1, x.b2, x.b3, x.b4, x.b5, x.b6, x.b7]

/-- The sector whose byte k is `f k`. -/
def sectorOf (f : Nat → Byte) : Sector := ⟨f 0, f 1, f 2, f 3, f 4, f 5, f 6, f 7⟩

/-- The sector of exactly eight bytes. -/
def sectorOfBytes : List Byte → Option Sector
  | [a, b, c, d, e, f, g, h] => some ⟨a, b, c, d, e, f, g, h⟩
  | _ => none

/-- Byte k of a sector. -/
def sectorByte (x : Sector) (k : Fin 8) : Byte :=
  match k with
  | 0 => x.b0
  | 1 => x.b1
  | 2 => x.b2
  | 3 => x.b3
  | 4 => x.b4
  | 5 => x.b5
  | 6 => x.b6
  | 7 => x.b7

/-- A sector with byte k replaced. -/
def sectorSet (x : Sector) (k : Fin 8) (v : Byte) : Sector :=
  match k with
  | 0 => { x with b0 := v }
  | 1 => { x with b1 := v }
  | 2 => { x with b2 := v }
  | 3 => { x with b3 := v }
  | 4 => { x with b4 := v }
  | 5 => { x with b5 := v }
  | 6 => { x with b6 := v }
  | 7 => { x with b7 := v }

/-- The request of a micro-op, on the latched port (R92). W8SB reads SB when it is presented
(R97). -/
def request (s : State) : MicroOp → Request
  | .w1 a v => ⟨s.lport, .wr, a, 1, [v]⟩
  | .w2 a v0 v1 => ⟨s.lport, .wr, a, 2, [v0, v1]⟩
  | .w8sb a => ⟨s.lport, .wr, a, 8, sectorBytes s.sb⟩
  | .r8sb a => ⟨s.lport, .rd, a, 8, []⟩
  | .poll a => ⟨s.lport, .rd, a, 1, []⟩

/-- The micro-op is a poll loop. -/
def MicroOp.isPoll : MicroOp → Bool
  | .poll _ => true
  | .w1 _ _ => false
  | .w2 _ _ _ => false
  | .w8sb _ => false
  | .r8sb _ => false

end Sys2Proof.Machine
end

