-- ==== Sys2Proof/Machine/Ops.lean ====
section
/-! DEFINITION. The named operations over memory, controllers and the block's registers:
acceptance (40_engine_primitives.md R91), advance and completion (R94, R95), the abort, which is
the block's exception entry (60_exceptions.md R149), and the block's reset (70 R161, R162). There
is no return from an abort (R152). -/

namespace Sys2Proof.Machine

/-! ### Memory -/

/-- One byte of memory. -/
def memRead : Memory → Nat → Byte
  | [], _ => Config.unlistedByte
  | (k, v) :: m, a => if k = a then v else memRead m a

/-- One byte of memory written, in canonical form. -/
def memWrite : Memory → Nat → Byte → Memory
  | [], a, v => if v = Config.unlistedByte then [] else [(a, v)]
  | (k, w) :: m, a, v =>
    if a < k then (if v = Config.unlistedByte then (k, w) :: m else (a, v) :: (k, w) :: m)
    else if a = k then (if v = Config.unlistedByte then m else (a, v) :: m)
    else (k, w) :: memWrite m a v

/-- Every address of the memory is at least `lo`, addresses strictly rise, and no entry holds what
an unlisted address reads as. -/
def memWfFrom : Nat → Memory → Bool
  | _, [] => true
  | lo, (k, v) :: m => decide (lo ≤ k) && (v != Config.unlistedByte) && memWfFrom (k + 1) m

/-- The canonical form of memory. -/
def Memory.wf (m : Memory) : Bool := memWfFrom 0 m

/-- Bytes written from an address upward. -/
def memWriteBytes : Memory → Nat → List Byte → Memory
  | m, _, [] => m
  | m, a, v :: vs => memWriteBytes (memWrite m a v) (a + 1) vs

/-- `n` bytes read from an address upward. -/
def memReadBytes (m : Memory) : Nat → Nat → List Byte
  | _, 0 => []
  | a, n + 1 => memRead m a :: memReadBytes m (a + 1) n

/-- Eight bytes read from an address upward. -/
def memReadSector (m : Memory) (a : Nat) : Sector := sectorOf fun k => memRead m (a + k)

/-- Eight bytes written from an address upward. -/
def memWriteSector (m : Memory) (a : Nat) (x : Sector) : Memory := memWriteBytes m a (sectorBytes x)

/-! ### The NVM -/

/-- The address of sector i in the NVM (R121). -/
def sectorBase (i : Nat) : Nat := 8 * i

/-- NVM sector i (R130). -/
def nvmRead (c : Controller) (i : Nat) : Sector := memReadSector c.nvm (sectorBase i)

/-- NVM sector i replaced. -/
def nvmWrite (c : Controller) (i : Nat) (x : Sector) : Controller :=
  { c with nvm := memWriteSector c.nvm (sectorBase i) x }

/-- NVM sector i replaced, if bit i of the mask is set. -/
def nvmWriteIf (mask : BitVec 5) (i : Nat) (x : Sector) (c : Controller) : Controller :=
  if mask.getLsbD i then nvmWrite c i x else c

/-! ### Controllers -/

/-- The controller of a port (R50). -/
def portGet : List (Nat × Controller) → Nat → Controller
  | [], _ => Controller.powerUp
  | (k, c) :: t, p => if k = p then c else portGet t p

/-- The controller of a port replaced, ports strictly rising. -/
def portSet : List (Nat × Controller) → Nat → Controller → List (Nat × Controller)
  | [], p, c => [(p, c)]
  | (k, d) :: t, p, c =>
    if p < k then (p, c) :: (k, d) :: t
    else if p = k then (p, c) :: t
    else (k, d) :: portSet t p c

/-- The controller the running command talks to, that of LPORT. -/
def controller (s : State) : Controller := portGet s.ctrls s.lport

/-- That controller replaced. -/
def setController (c : Controller) (s : State) : State :=
  { s with ctrls := portSet s.ctrls s.lport c }

/-- How many indices of each free-value function one step may use: eight for each byte of the
longest write. -/
def drawStride : Nat := 64

/-- Fresh free values from here on (log 3). -/
def bump (s : State) : State := { s with draws := s.draws + drawStride }

/-- An NVM of which nothing is known: five sectors of free values. -/
def freeNvm (n : Nat) : Memory :=
  memWriteSector
    (memWriteSector
      (memWriteSector
        (memWriteSector
          (memWriteSector [] (sectorBase 0) (Config.freeSector n))
          (sectorBase 1) (Config.freeSector (n + 1)))
        (sectorBase 2) (Config.freeSector (n + 2)))
      (sectorBase 3) (Config.freeSector (n + 3)))
    (sectorBase 4) (Config.freeSector (n + 4))

/-- A controller in any state: every register, flag and NVM byte a free value, and BUSYOP none or any
of the eight opcodes (93 U2, U9, U19; log 10). -/
def anyController (n : Nat) : Controller where
  pwd := Config.freeByte n
  c0 := Config.freeByte (n + 1)
  c1 := Config.freeByte (n + 2)
  rw := Config.freeSector (n + 5)
  pl := Config.freeSector (n + 6)
  ser := Config.freeMask n
  soft := Config.freeFlag n
  erased := Config.freeMask (n + 1)
  busyop := Config.freeOpcode n
  nvm := freeNvm n

/-! ### Acceptance (R91) -/

/-- A read of PORT while it is unwritten is a model fault: recorded, never cleared (R148, 93 U14;
log 6). -/
def recordPort (s : State) : Recorded :=
  if s.portWritten then s.recorded else { s.recorded with portUnwritten := true }

/-- `LCMD <- c; LPORT <- PORT; POLLCNT <- 0; PLC <- 0` (R91). -/
def latch (c : Byte) (s : State) : State :=
  { s with lcmd := c, lport := s.port, pollcnt := 0, plc := 0, recorded := recordPort s }

/-- A command rejected at acceptance: PHASE stays IDLE (R91, R147). -/
def reject (e : ResultCode) (s : State) : State := { s with result := e }

/-- A command that begins its script (R91). -/
def start (script : List MicroOp) (s : State) : State :=
  { s with script := script, sp := 0, phase := .issue }

/-- A command word written while PHASE = IDLE is latched and either rejected or started; one
written while the engine is busy is not accepted and has no effect (R21, R91). -/
def accept (c : Byte) (act : State → State) (s : State) : State :=
  if s.phase = .idle then act (latch c s) else s

/-! ### Ends of a command -/

/-- Completion (R95). -/
def complete (s : State) : State := { s with result := .ok, phase := .idle }

/-- The abort (R149): `RESULT <- E; OUT <- empty; PHASE <- IDLE`. -/
def raise (e : ResultCode) (s : State) : State :=
  { s with result := e, out := none, phase := .idle }

/-- SP moved onto the next micro-op, with PLC cleared if it is a POLL (R94). -/
def moveOn (op : MicroOp) (s : State) : State :=
  { s with sp := s.sp + 1, plc := if op.isPoll then 0 else s.plc, phase := .issue }

/-- A micro-op that completes (R94). -/
def advance (s : State) : State :=
  match s.script[s.sp + 1]? with
  | none => complete { s with sp := s.sp + 1 }
  | some op => moveOn op s

/-! ### Reset of the block -/

/-- The block's registers at their reset values (R161). Parameters, controllers, host, environment,
trace and recorded faults are not the block's. -/
def resetBlock (s : State) : State :=
  { s with
    cmd := State.reset.cmd, port := State.reset.port, portWritten := false
    sb := State.reset.sb, sbWritten := 0#8, result := .ok, pollcnt := 0, pollLimit := 0
    phase := .idle, script := [], sp := 0, plc := 0
    lcmd := State.reset.lcmd, lport := State.reset.lport, out := none }

/-- A reset while a command runs drops the outstanding transaction, which gets no response
(R162), and leaves the controller in any state (93 U19). -/
def dropCommand (s : State) : State :=
  match s.phase with
  | .idle => s
  | .issue => bump (setController (anyController s.draws) s)
  | .wait =>
    bump (setController (anyController s.draws)
      { s with trace := s.trace ++ (s.out.toList.map fun r => ⟨r, none⟩) })

end Sys2Proof.Machine
end

