-- ==== Sys2Proof/Machine/ModeCommands.lean ====
section
/-! DEFINITION. The mode commands and their scripts: EnterWriteMode, EnterReadMode, ExitTestMode
(41_mode_commands.md R108, R111, R112). An instruction's meaning is its acceptance (R91); the
script then runs one issue or response step at a time. -/

namespace Sys2Proof.Machine

/-- The script of EnterWriteMode(m) (R108). -/
def ewmScript (p : Params) (m : BitVec 5) : List MicroOp :=
  [ .w1 p.addrPwd p.pwdUnlock
  , .w1 p.addrCtrl0 ctrl0Clr
  , .w1 p.addrCtrl0 ctrl0Arm
  , .w1 p.addrCtrl1 (ctrl1 m opcodeWriteSer)
  , .w1 p.addrCtrl0 ctrl0SubmitPlain
  , .poll p.addrCtrl0
  , .w1 p.addrCtrl1 (ctrl1 0 opcodeSoftProg)
  , .w1 p.addrCtrl0 ctrl0SubmitPlain
  , .poll p.addrCtrl0
  , .w1 p.addrCtrl1 (ctrl1 0 opcodeEraseSectors)
  , .w1 p.addrCtrl0 ctrl0SubmitPlain
  , .poll p.addrCtrl0 ]

/-- The script of EnterReadMode (R111). -/
def ermScript (p : Params) : List MicroOp :=
  [ .w1 p.addrPwd p.pwdUnlock
  , .w1 p.addrCtrl0 ctrl0Clr
  , .w1 p.addrCtrl0 ctrl0Arm ]

/-- The script of ExitTestMode (R112). -/
def etmScript (p : Params) : List MicroOp :=
  [ .w2 p.addrCtrl0 p.exitCtrl0 0x00#8
  , .w1 p.addrPwd Config.pwdLock ]

/-- EWM m: every mask is legal (R74, R108). -/
def execEwm (m : BitVec 5) (s : State) : Host.Outcome State Fault Refusal :=
  .next (accept (encode (.ewm m)) (start (ewmScript s.params m)) s)

/-- ERM (R111). -/
def execErm (s : State) : Host.Outcome State Fault Refusal :=
  .next (accept (encode .erm) (start (ermScript s.params)) s)

/-- ETM (R112). -/
def execEtm (s : State) : Host.Outcome State Fault Refusal :=
  .next (accept (encode .etm) (start (etmScript s.params)) s)

end Sys2Proof.Machine
end

