-- ==== Sys2Proof/Machine/Opcodes.lean ====
section
/-! DEFINITION. The FTP opcodes, as the reference controller of LPORT runs them on completion
(45_ftp_opcodes.md R132, R135 to R142). The sector select is CTRL_0[2:0] of the submit. -/

namespace Sys2Proof.Machine

/-- An opcode completes: its effect is applied and `BUSYOP <- none` (R132). -/
def finish (c : Controller) (s : State) : State := setController { c with busyop := none } s

/-- The sector select of the submit that started the opcode: C0[2:0] (R132). -/
def opSelect (c : Controller) : Nat := sectorSelect c.c0

/-- Every NVM byte and every ERASED flag a free value (log 9). -/
def looseNvm (n : Nat) (c : Controller) : Controller :=
  { c with nvm := freeNvm n, erased := Config.freeMask n }

/-- `RW[k] <- NVM[sel][k]` (R135); for sel 5 to 7, "never issued", RW holds free values (log 9). -/
def readEffect (n : Nat) (c : Controller) : Controller :=
  { c with rw := if opSelect c < 5 then nvmRead c (opSelect c) else Config.freeSector n }

/-- For every i with `SER[i] = 1`, NVM[i] is erased and `ERASED[i] <- true`, if SOFT (R140). A partial
mask erases exactly its sectors (DESIGN CHOICE against 93 U17, log 25). -/
def eraseEffect (p : Params) (c : Controller) : Controller :=
  let e := Sector.fill p.erasedByte
  if c.soft then
    { nvmWriteIf c.ser 4 e (nvmWriteIf c.ser 3 e (nvmWriteIf c.ser 2 e
        (nvmWriteIf c.ser 1 e (nvmWriteIf c.ser 0 e c)))) with erased := c.erased ||| c.ser }
  else c

/-- If `ERASED[sel]` then `NVM[sel] <- PL` and `ERASED[sel] <- false`, otherwise NVM[sel] holds any
bytes (R141). For sel 5 to 7, which no rule covers, nothing is known of the NVM (log 9). -/
def progEffect (n : Nat) (c : Controller) : Controller :=
  if opSelect c < 5 then
    if c.erased.getLsbD (opSelect c) then
      { nvmWrite c (opSelect c) c.pl with
        erased := c.erased &&& ~~~((1#5) <<< (opSelect c)) }
    else nvmWrite c (opSelect c) (Config.freeSector n)
  else looseNvm n c

/-- OP_READ (R135). -/
def execOpRead (_ser : BitVec 5) (s : State) : Host.Outcome State Fault Refusal :=
  .next (bump (finish (readEffect s.draws (controller s)) s))

/-- OP_WRITE_PL: `PL[k] <- RW[k]` (R136). -/
def execOpWritePl (_ser : BitVec 5) (s : State) : Host.Outcome State Fault Refusal :=
  .next (finish { controller s with pl := (controller s).rw } s)

/-- OP_WRITE_SER: `SER <- C1[7:3]; SOFT <- false` (R137). -/
def execOpWriteSer (ser : BitVec 5) (s : State) : Host.Outcome State Fault Refusal :=
  .next (finish { controller s with ser := ser, soft := false } s)

/-- OP_READ_PL: "Reference effect: unspecified; the reference model refuses it" (R138). -/
def execOpReadPl (_ser : BitVec 5) (_s : State) : Host.Outcome State Fault Refusal :=
  .refused .readPlUnspecified

/-- OP_READ_SER: "Reference effect: unspecified; the reference model refuses it" (R139). -/
def execOpReadSer (_ser : BitVec 5) (_s : State) : Host.Outcome State Fault Refusal :=
  .refused .readSerUnspecified

/-- OP_ERASE_SECTORS (R140). -/
def execOpEraseSectors (_ser : BitVec 5) (s : State) : Host.Outcome State Fault Refusal :=
  .next (finish (eraseEffect s.params (controller s)) s)

/-- OP_PROG_SECTOR (R141). -/
def execOpProgSector (_ser : BitVec 5) (s : State) : Host.Outcome State Fault Refusal :=
  .next (bump (finish (progEffect s.draws (controller s)) s))

/-- OP_SOFT_PROG: `SOFT <- true` (R142). -/
def execOpSoftProg (_ser : BitVec 5) (s : State) : Host.Outcome State Fault Refusal :=
  .next (finish { controller s with soft := true } s)

end Sys2Proof.Machine
end

