-- ==== Sys2Proof/Machine/ReservedCommands.lean ====
section
/-! DEFINITION. The reserved command words: rejected at acceptance with IllegalCommand, no bus
traffic (30_encoding.md R76, R84; 40_engine_primitives.md R91). -/

namespace Sys2Proof.Machine

/-- Code 0 (R84). -/
def execReservedCode0 (x : BitVec 5) (s : State) : Host.Outcome State Fault Refusal :=
  .next (accept (encode (.reservedCode0 x)) (reject .illegalCommand) s)

/-- Code 6 (R84). -/
def execReservedCode6 (x : BitVec 5) (s : State) : Host.Outcome State Fault Refusal :=
  .next (accept (encode (.reservedCode6 x)) (reject .illegalCommand) s)

/-- Code 7 (R84). -/
def execReservedCode7 (x : BitVec 5) (s : State) : Host.Outcome State Fault Refusal :=
  .next (accept (encode (.reservedCode7 x)) (reject .illegalCommand) s)

/-- Code 2 with a nonzero ARG (R76). -/
def execErmArg (a : BitVec 5) (s : State) : Host.Outcome State Fault Refusal :=
  .next (accept (encode (.ermArg a)) (reject .illegalCommand) s)

/-- Code 3 with a nonzero ARG (R76). -/
def execEtmArg (a : BitVec 5) (s : State) : Host.Outcome State Fault Refusal :=
  .next (accept (encode (.etmArg a)) (reject .illegalCommand) s)

end Sys2Proof.Machine
end

