-- ==== Sys2Proof/Machine/SectorCommands.lean ====
section
/-! DEFINITION. The sector commands and their scripts: ReadSector and WriteSector
(42_sector_commands.md R114, R117). An index above 4 is rejected with ArgError before any bus
traffic (R75, R91). -/

namespace Sys2Proof.Machine

/-- The script of ReadSector(i) (R114). -/
def rdsScript (p : Params) (i : BitVec 5) : List MicroOp :=
  [ .w1 p.addrCtrl0 ctrl0Arm
  , .w1 p.addrCtrl1 (ctrl1 0 opcodeRead)
  , .w1 p.addrCtrl0 (ctrl0Submit i)
  , .poll p.addrCtrl0
  , .r8sb p.addrRwbuf
  , .w1 p.addrCtrl0 ctrl0Clr ]

/-- The script of WriteSector(i) (R117). -/
def wrsScript (p : Params) (i : BitVec 5) : List MicroOp :=
  [ .w8sb p.addrRwbuf
  , .w1 p.addrCtrl0 ctrl0Arm
  , .w1 p.addrCtrl1 (ctrl1 0 opcodeWritePl)
  , .w1 p.addrCtrl0 ctrl0SubmitPlain
  , .poll p.addrCtrl0
  , .w1 p.addrCtrl1 (ctrl1 0 opcodeProgSector)
  , .w1 p.addrCtrl0 (ctrl0Submit i)
  , .poll p.addrCtrl0 ]

/-- A legal index starts the script, another is rejected with ArgError (R91). -/
def acceptIndex (i : BitVec 5) (script : List MicroOp) (s : State) : State :=
  if indexLegal i then start script s else reject .argError s

/-- RDS i (R114). -/
def execRds (i : BitVec 5) (s : State) : Host.Outcome State Fault Refusal :=
  .next (accept (encode (.rds i)) (acceptIndex i (rdsScript s.params i)) s)

/-- WRS i (R117). -/
def execWrs (i : BitVec 5) (s : State) : Host.Outcome State Fault Refusal :=
  .next (accept (encode (.wrs i)) (acceptIndex i (wrsScript s.params i)) s)

end Sys2Proof.Machine
end

