-- ==== Sys2Proof/Machine/Dispatch.lean ====
section
/-! DEFINITION. One arm per constructor of Instr. -/

namespace Sys2Proof.Machine

def exec (i : Instr) (s : State) : Host.Outcome State Fault Refusal :=
  match i with
  | .ewm m => Sys2Proof.Machine.execEwm m s
  | .erm => Sys2Proof.Machine.execErm s
  | .etm => Sys2Proof.Machine.execEtm s
  | .rds k => Sys2Proof.Machine.execRds k s
  | .wrs k => Sys2Proof.Machine.execWrs k s
  | .opRead ser => Sys2Proof.Machine.execOpRead ser s
  | .opWritePl ser => Sys2Proof.Machine.execOpWritePl ser s
  | .opWriteSer ser => Sys2Proof.Machine.execOpWriteSer ser s
  | .opReadPl ser => Sys2Proof.Machine.execOpReadPl ser s
  | .opReadSer ser => Sys2Proof.Machine.execOpReadSer ser s
  | .opEraseSectors ser => Sys2Proof.Machine.execOpEraseSectors ser s
  | .opProgSector ser => Sys2Proof.Machine.execOpProgSector ser s
  | .opSoftProg ser => Sys2Proof.Machine.execOpSoftProg ser s
  | .reservedCode0 x => Sys2Proof.Machine.execReservedCode0 x s
  | .reservedCode6 x => Sys2Proof.Machine.execReservedCode6 x s
  | .reservedCode7 x => Sys2Proof.Machine.execReservedCode7 x s
  | .ermArg a => Sys2Proof.Machine.execErmArg a s
  | .etmArg a => Sys2Proof.Machine.execEtmArg a s

end Sys2Proof.Machine
end

