-- ==== Sys2Proof/Machine/Engine.lean ====
section
/-! DEFINITION. The engine's two steps, issue and response (40_engine_primitives.md R92, R93), and
the response rule of each micro-op (R96 to R99). -/

namespace Sys2Proof.Machine

/-- All eight SB bytes are written. -/
def sbAllWritten : BitVec 8 := 0xFF#8

/-- Presenting a W8SB while an SB byte is unwritten is a model fault, recorded (R97, R148). DESIGN
CHOICE (log 6): it is recorded in the step in which the environment takes the request, so a W8SB that
is withheld in ISSUE and then dropped by a reset records nothing. -/
def recordIssue (op : MicroOp) (s : State) : Recorded :=
  match op with
  | .w8sb _ =>
    if s.sbWritten = sbAllWritten then s.recorded else { s.recorded with sbUnwritten := true }
  | .w1 _ _ => s.recorded
  | .w2 _ _ _ => s.recorded
  | .r8sb _ => s.recorded
  | .poll _ => s.recorded

/-- The issue step: `OUT <- req; PHASE <- WAIT` (R92). -/
def issue (op : MicroOp) (s : State) : State :=
  { s with out := some (request s op), phase := .wait, recorded := recordIssue op s }

/-- All eight SB bytes replaced at once (R98). -/
def loadSb (d : Sector) (s : State) : State := { s with sb := d, sbWritten := sbAllWritten }

/-- `PHASE <- ISSUE`, same SP: poll again (R99). -/
def pollAgain (s : State) : State := { s with phase := .issue }

/-- The response rule of POLL for a read answered `ok` with v (R99). -/
def pollResponse (v : Byte) (s : State) : State :=
  let t := countPoll s
  if requestBit v = false then advance t
  else if capReached t then raise .timeoutError t
  else pollAgain t

/-- The response rule of a micro-op; `none` is a transaction answered `error` (R96 to R99). -/
def engineResponse (op : MicroOp) (ans : Option Sector) (s : State) : State :=
  match ans with
  | none => raise .transportError s
  | some d =>
    match op with
    | .w1 _ _ => advance s
    | .w2 _ _ _ => advance s
    | .w8sb _ => advance s
    | .r8sb _ => advance (loadSb d s)
    | .poll _ => pollResponse d.b0 s

end Sys2Proof.Machine
end

