-- ==== Sys2Proof/Machine/Reference.lean ====
section
/-! DEFINITION. The reference controller on the bus (45_ftp_opcodes.md R131 to R134): what it reads
back, what a write does to it, and what a failed write leaves of it
(93_implementation_defined.md U2, U9). Its opcodes are in Machine/Opcodes.lean. -/

namespace Sys2Proof.Machine

/-- A 1-byte read of CTRL_0 returns C0 with bit 5 replaced by `BUSYOP ≠ none` (R133). -/
def ctrl0Read (c : Controller) : Byte :=
  (c.c0 &&& 0xDF#8) ||| (if c.busyop.isSome then 0x20#8 else 0x00#8)

/-- The bytes a read returns, where a rule gives them (R133, R43). -/
def refRead (p : Params) (c : Controller) (req : Request) : Option Sector :=
  if req.addr = p.addrCtrl0 ∧ req.len = 1 then some (Sector.fill (ctrl0Read c))
  else if req.addr = p.addrRwbuf ∧ req.len = 8 then some c.rw
  else none

/-- A CTRL_0 value accepted by the controller; with bit 5 set it submits the opcode in C1 (R132). -/
def ctrl0Write (v : Byte) (c : Controller) : Controller :=
  { c with c0 := v, busyop := if requestBit v then some (fieldLow c.c1) else c.busyop }

/-- One byte written at a register address (R131, R132). The password gate is tested first: at a
locked controller a control write is ignored also while an opcode is in progress (DESIGN CHOICE,
log 33). A control write the gate lets through while an opcode is in progress, or a write at an
address that is no register, leaves the controller in any state (93 U9; log 10). -/
def writeByte (p : Params) (n : Nat) (a v : Byte) (c : Controller) : Controller :=
  if a = p.addrPwd then { c with pwd := v }
  else if a = p.addrCtrl0 ∨ a = p.addrCtrl1 then
    if c.pwd ≠ p.pwdUnlock then c
    else if c.busyop.isSome then anyController n
    else if a = p.addrCtrl0 then ctrl0Write v c
    else { c with c1 := v }
  else anyController n

/-- Byte k of a multi-byte write is written at addr + k (R54, R55). Each byte has free values of its
own. -/
def writeBytes (p : Params) (n : Nat) (a : Byte) : List Byte → Controller → Controller
  | [], c => c
  | v :: vs, c => writeBytes p (n + 8) (a + 1) vs (writeByte p n a v c)

/-- A write transaction answered `ok` (R131). Eight bytes at RWBUF are staged whatever the
password register holds. -/
def refWrite (p : Params) (n : Nat) (req : Request) (c : Controller) : Controller :=
  if req.addr = p.addrRwbuf then
    match sectorOfBytes req.wdata with
    | some x => { c with rw := x }
    | none => anyController n
  else writeBytes p n req.addr req.wdata c

/-- A write transaction answered `error` may or may not have landed, and may have left any other
controller state: the controller is in any state, BUSYOP with the rest (20 R60, 60 R150, 93 U2;
log 11). -/
def failedWrite (n : Nat) : Controller := anyController n

/-- The controller after a transaction. The unconstrained environment's controller is in any state
after each (R37). The reference controller is left unchanged by every read, the 8-byte read of RWBUF
with them (DESIGN CHOICE, log 31), and by a poll that is answered `error` or reaches the cap, so that
its NVM after such an abort is what the transactions left (R150; DESIGN CHOICE against 93 U21,
log 32). -/
def controllerAfter (mode : EnvMode) (p : Params) (n : Nat) (req : Request) (ok : Bool)
    (c : Controller) : Controller :=
  match mode with
  | .free => anyController n
  | .reference =>
    match req.dir with
    | .rd => c
    | .wr => if ok then refWrite p n req c else failedWrite n

/-- A CTRL_0 write with SOS or bit 3 set that the reference controller would accept: refused
(93 U10). -/
def ctrl0Refused (mode : EnvMode) (p : Params) (req : Request) (c : Controller) : Bool :=
  match mode with
  | .free => false
  | .reference =>
    decide (req.dir = .wr ∧ req.addr = p.addrCtrl0 ∧ c.pwd = p.pwdUnlock ∧
      (req.wdata.headD 0#8) &&& 0x18#8 ≠ 0#8)

/-- The bytes the reference controller gives a read; a free value where no rule gives them. -/
def refData (p : Params) (n : Nat) (req : Request) (c : Controller) : Sector :=
  (refRead p c req).getD (Config.freeSector n)

/-- The opcode in progress at the controller, as the CTRL_1 word the controller runs: the opcode
latched at the submit, with C1's SER field (R132). Only the reference controller runs opcodes.
DESIGN CHOICE (log 35): the controller is that of LPORT alone. An opcode in progress at another port
stands still until a command names that port, and a block reset, which sets LPORT to 0, makes port 0
the one that goes on. -/
def opcodeInProgress (s : State) : Option Byte :=
  match s.envMode with
  | .free => none
  | .reference =>
    (controller s).busyop.map fun op => packFields (fieldHigh (controller s).c1) op

end Sys2Proof.Machine
end

