-- ==== Sys2Proof/Machine/Session.lean ====
section
/-! DEFINITION. Host programs (44_session_programs.md R124 to R128) and the image codec
(43_sector_muxer.md R121, R122). -/

namespace Sys2Proof.Machine

/-- `sector(img, i) = img[8*i .. 8*i+8)` (R121). -/
def imageSector (img : List Byte) (i : Nat) : Sector := sectorOf fun k => img.getD (8 * i + k) 0#8

/-- `assemble(s0, ..., s4)` (R122). -/
def assembleImage (s0 s1 s2 s3 s4 : Sector) : List Byte :=
  sectorBytes s0 ++ (sectorBytes s1 ++ (sectorBytes s2 ++ (sectorBytes s3 ++ sectorBytes s4)))

/-- A command mnemonic in a host program, implicitly followed by WAIT and CHECK (R88). -/
def command (cleanup : Bool) (c : Byte) : List HostAction := [.cmd c, .wait, .check cleanup]

/-- `EWM.nc` and the like: the command word alone (R88). -/
def commandNc (c : Byte) : List HostAction := [.cmd c]

/-- One sector of FLASH: `LDSB sector(img, i)`, `WRS i` (R124). -/
def flashSector (cleanup : Bool) (img : List Byte) (i : Nat) : List HostAction :=
  .ldsb (imageSector img i) :: command cleanup (encode (.wrs (BitVec.ofNat 5 i)))

/-- `FLASH img` (R124); CLEANUP_ON_ERROR says whether a failed CHECK of the session cleans up
(R127). -/
def flashProgram (p : Params) (img : List Byte) : List HostAction :=
  let c := p.cleanupOnError
  command c (encode (.ewm 0x1F#5)) ++
    (flashSector c img 0 ++ (flashSector c img 1 ++ (flashSector c img 2 ++
      (flashSector c img 3 ++ (flashSector c img 4 ++
        (command c (encode .etm) ++ [.ret .ok]))))))

/-- One sector of READ: `RDS i`, `STSB -> stage[8*i .. 8*i+8)` (R125). -/
def readSectorTo (cleanup : Bool) (i : Nat) : List HostAction :=
  command cleanup (encode (.rds (BitVec.ofNat 5 i))) ++ [.stsbStage (8 * i)]

/-- `READ dst, cap`: the sectors go to the local staging area, and `dst` is written only after ETM
has returned OK (R125, R128). -/
def readProgram (p : Params) (dst cap : Nat) : List HostAction :=
  let c := p.cleanupOnError
  if cap < 40 then [.ret .capacityError]
  else
    command c (encode .erm) ++
      (readSectorTo c 0 ++ (readSectorTo c 1 ++ (readSectorTo c 2 ++
        (readSectorTo c 3 ++ (readSectorTo c 4 ++
          (command c (encode .etm) ++ [.copyStage dst, .ret .ok]))))))

end Sys2Proof.Machine
end

