-- ==== Sys2Proof/Machine/Turn.lean ====
section
/-! DEFINITION. Whose move is next and what it does: a host action (30_encoding.md R88, 10_state.md
section 2), the environment taking or answering a transaction (R92, R93), or the controller
completing an opcode (45_ftp_opcodes.md R132). A move is either the execution of an instruction or
an outcome of its own. -/

namespace Sys2Proof.Machine

/-- What a turn comes to. -/
inductive Move where
  /-- The instruction is executed at the state. -/
  | exec (i : Instr) (s : State)
  /-- The turn's outcome, no instruction being executed. -/
  | done (o : Host.Outcome State Fault Refusal)

/-! ### The host -/

/-- The value a read of a host-side register returns: CMD reads 0x00 (R22). POLL_LIMIT reads as it
is also while BUSY = 1, where the spec gives only "read/write while idle" (DESIGN CHOICE, log 30). -/
def hostRegValue (s : State) : HostReg → Nat
  | .cmd => 0
  | .port => s.port
  | .status => (status s).toNat
  | .pollcnt => s.pollcnt
  | .pollLimit => s.pollLimit

/-- A host read of SB: the eight bytes while idle, an unspecified value while busy (R24, R165). -/
def sbSeen (s : State) : Sector := if s.phase = .idle then s.sb else Config.freeSector s.draws

/-- The model fault of a host read of the SB bytes in `mask`: the engine busy (R165), or a byte
unwritten (R24). -/
def recordSbRead (mask : BitVec 8) (s : State) : Recorded :=
  if s.phase = .idle then
    if s.sbWritten &&& mask = mask then s.recorded
    else { s.recorded with sbReadUnwritten := true }
  else { s.recorded with sbReadBusy := true }

/-- The model fault of a host read of PORT before any write of it (93 U14). -/
def recordRead (r : HostReg) (s : State) : Recorded :=
  match r with
  | .port => recordPort s
  | .cmd => s.recorded
  | .status => s.recorded
  | .pollcnt => s.recorded
  | .pollLimit => s.recorded

/-- The mask of the one byte k. -/
def sbMask (k : Fin 8) : BitVec 8 := (1#8) <<< k.val

/-- CHECK on a failure: the program stops with the RESULT code; with cleanup, ExitTestMode is issued
once and its result ignored (R88, R127). -/
def stopProgram (cleanup : Bool) (s : State) : State :=
  if cleanup then { s with prog := [.cmd (encode .etm), .wait, .ret (.failed s.result)] }
  else { s with prog := [], hostResult := some (.failed s.result) }

/-- The effect of a host action other than a CMD write. An access at an address has been replaced by
the one it names (`resolve`). A return, of OK or of a failure, ends the whole program: actions after
it are dropped (DESIGN CHOICE, log 36). -/
def hostEffect (a : HostAction) (s : State) : State :=
  match a with
  | .cmd _ => s
  | .port v => { s with port := v % 2 ^ s.params.portW, portWritten := true }
  | .limit v => if s.phase = .idle then { s with pollLimit := v % 2 ^ s.params.pollcntW } else s
  | .writeReadOnly _ => s
  | .read r => { s with hostRead := hostRegValue s r, recorded := recordRead r s }
  | .ldsb x => loadSb x s
  | .writeSb k v => { s with sb := sectorSet s.sb k v, sbWritten := s.sbWritten ||| sbMask k }
  | .stsb d =>
    bump { s with hostMem := memWriteSector s.hostMem d (sbSeen s),
                  recorded := recordSbRead sbAllWritten s }
  | .stsbStage k =>
    bump { s with stage := memWriteSector s.stage k (sbSeen s),
                  recorded := recordSbRead sbAllWritten s }
  | .readSb k =>
    bump { s with hostRead := (sectorByte (sbSeen s) k).toNat,
                  recorded := recordSbRead (sbMask k) s }
  | .wait => s
  | .check cleanup => if s.result = .ok then s else stopProgram cleanup s
  | .copy d a n => { s with hostMem := memWriteBytes s.hostMem d (memReadBytes s.hostMem a n) }
  | .copyStage d => { s with hostMem := memWriteBytes s.hostMem d (memReadBytes s.stage 0 40) }
  | .ret c => { s with prog := [], hostResult := some c }
  | .reset => resetBlock (dropCommand s)
  | .writeAt _ _ => s
  | .readAt _ => s

/-- What HOST_MAP has at an address. -/
def hostPlaceAt : List (Nat × HostPlace) → Nat → Option HostPlace
  | [], _ => none
  | (k, x) :: m, a => if k = a then some x else hostPlaceAt m a

/-- A host write of `v` at a register or an SB byte, as the action that names it. -/
def hostWriteOf (v : Nat) : HostPlace → HostAction
  | .reg .cmd => .cmd (BitVec.ofNat 8 v)
  | .reg .port => .port v
  | .reg .status => .writeReadOnly v
  | .reg .pollcnt => .writeReadOnly v
  | .reg .pollLimit => .limit v
  | .sb k => .writeSb k (BitVec.ofNat 8 v)

/-- A host read of a register or an SB byte, as the action that names it. -/
def hostReadOf : HostPlace → HostAction
  | .reg r => .read r
  | .sb k => .readSb k

/-- An access at a host-bus address is the access to what HOST_MAP names there (20_memory.md R51;
log 24); every other action is itself. -/
def resolve (p : Params) (a : HostAction) : Option HostAction :=
  match a with
  | .writeAt k v => (hostPlaceAt p.hostMap k).map (hostWriteOf v)
  | .readAt k => (hostPlaceAt p.hostMap k).map hostReadOf
  | _ => some a

/-- A host write of SB while BUSY = 1 (R165). -/
def sbWriteRefused (a : HostAction) (s : State) : Bool :=
  match a with
  | .ldsb _ => busy s
  | .writeSb _ _ => busy s
  | _ => false

/-- The action holds until the engine is idle: a CMD write (R21) and WAIT (R88). -/
def hostHeld (a : HostAction) (s : State) : Bool :=
  match a with
  | .cmd _ => busy s
  | .wait => busy s
  | .port _ => false
  | .limit _ => false
  | .writeReadOnly _ => false
  | .read _ => false
  | .ldsb _ => false
  | .writeSb _ _ => false
  | .stsb _ => false
  | .stsbStage _ => false
  | .readSb _ => false
  | .check _ => false
  | .copy _ _ _ => false
  | .copyStage _ => false
  | .ret _ => false
  | .reset => false
  | .writeAt _ _ => false
  | .readAt _ => false

/-- The host has an action that it can take now. -/
def hostReady (s : State) : Bool :=
  match s.prog with
  | [] => false
  | a :: _ =>
    match resolve s.params a with
    | none => true
    | some b => !hostHeld b s

/-- One host action. A write of CMD is the fetch of a command: `CMD <- c`, then the instruction it
decodes to is executed (R21, R77). A write of SB while BUSY = 1 is refused (R165). -/
def hostAct (a : HostAction) (s : State) : Move :=
  match a with
  | .cmd c => .exec (decodeCmd c) { s with cmd := c }
  | _ =>
    if sbWriteRefused a s then .done (.refused .sbWriteBusy) else .done (.next (hostEffect a s))

/-- The host's turn: its next action, unless it is held or there is none. An access at an address
HOST_MAP gives nothing at is refused (log 24). -/
def hostTurn (s : State) : Move :=
  match s.prog with
  | [] => .done (.next s)
  | a :: rest =>
    match resolve s.params a with
    | none => .done (.refused .hostAddressUnmapped)
    | some b => if hostHeld b s then .done (.next s) else hostAct b { s with prog := rest }

/-! ### The environment -/

/-- The environment's move: the one fixed in `answers`, else what the environment's kind gives;
`none` is left to the reference controller. -/
def pick (s : State) : Option EnvMove :=
  match s.answers with
  | some m :: _ => some m
  | _ =>
    match s.envMode with
    | .reference => none
    | .free => some (Config.envDraw s.draws)

/-- A move by which the environment withholds (R38): a fixed one is used up. -/
def withhold (s : State) : State :=
  bump { s with
    answers := match s.answers with
      | some .hold :: rest => rest
      | as => as }

/-- The response the trace shows: a read returns exactly `len` bytes (R37). -/
def traceResponse (req : Request) (ans : Option Sector) : Response :=
  match ans with
  | none => .error
  | some d =>
    match req.dir with
    | .rd => .ok ((sectorBytes d).take req.len)
    | .wr => .ok []

/-- The environment's side of a response: the controller moves on, the transaction enters the trace,
OUT is emptied (R93). -/
def deliver (req : Request) (ans : Option Sector) (s : State) : State :=
  let c := controllerAfter s.envMode s.params s.draws req ans.isSome (controller s)
  bump { setController c s with
    answers := s.answers.tail, out := none
    trace := s.trace ++ [⟨req, some (traceResponse req ans)⟩] }

/-- The response step of the whole machine: the environment's side, then the engine's (R93). -/
def respond (req : Request) (op : MicroOp) (ans : Option Sector) (s : State) : State :=
  engineResponse op ans (deliver req ans s)

/-- A transaction answered `ok`, unless the reference controller refuses it (93 U10). -/
def respondOk (req : Request) (op : MicroOp) (d : Sector) (s : State) :
    Host.Outcome State Fault Refusal :=
  if ctrl0Refused s.envMode s.params req (controller s) then .refused .ctrl0BitsUnspecified
  else .next (respond req op (some d) s)

/-- The environment's turn while PHASE = ISSUE: it takes the request or withholds (R92). An unwritten
SB byte is recorded where the request is taken (log 6). -/
def issueTurn (s : State) : Host.Outcome State Fault Refusal :=
  match s.script[s.sp]? with
  | none => .fault .scriptOverrun
  | some op => if pick s = some .hold then .next (withhold s) else .next (bump (issue op s))

/-- The environment's turn while PHASE = WAIT: it answers or withholds (R93). -/
def waitTurn (s : State) : Host.Outcome State Fault Refusal :=
  match s.out with
  | none => .fault .noOutstanding
  | some req =>
    match s.script[s.sp]? with
    | none => .fault .scriptOverrun
    | some op =>
      match pick s with
      | some .hold => .next (withhold s)
      | some (.ok d) => respondOk req op d s
      | some .error => .next (respond req op none s)
      | none => respondOk req op (refData s.params s.draws req (controller s)) s

/-- The environment's turn. An opcode in progress completes first, so before the first poll that
follows its submit (R132): the controller executes it. -/
def envTurn (s : State) : Move :=
  match opcodeInProgress s with
  | some b => .exec (decodeCtrl1 b) s
  | none =>
    match s.phase with
    | .idle => .done (.next s)
    | .issue => .done (issueTurn s)
    | .wait => .done (waitTurn s)

/-! ### Whose turn -/

/-- The next move: the agent `sched` names; where it names none, the host if it can act now, else
the environment (log 1). -/
def nextMove (s : State) : Move :=
  match s.sched with
  | .host :: rest => hostTurn { s with sched := rest }
  | .env :: rest => envTurn { s with sched := rest }
  | [] => if hostReady s then hostTurn s else envTurn s

end Sys2Proof.Machine
end

