-- ==== Sys2Proof/Machine/Step.lean ====
section
/-! DEFINITION. One step of the machine: the next move, with the instruction it executes, if any. -/

namespace Sys2Proof.Machine

/-- The outcome of a move. -/
def runMove : Move → Host.Outcome State Fault Refusal
  | .exec i s => exec i s
  | .done o => o

/-- One step. -/
def step (s : State) : Host.Outcome State Fault Refusal := runMove (nextMove s)

/-- The state with the command word `w` as the host's next action and the host to move: the block
fetches nothing, a program reaches it as writes of CMD (20_memory.md R63, R69; log 17). A CMD write
is accepted only while PHASE = IDLE, so PHASE and OUT are set to that. -/
def State.withFetchWord (s : State) (nbits w : Nat) : State :=
  { s with
    prog := (wordBytes (nbits / 8) w).map HostAction.cmd ++ s.prog
    sched := .host :: s.sched, phase := .idle, out := none }

end Sys2Proof.Machine
end

