-- ==== Sys2Proof/Safety.lean ====
section
/-! DEFINITION. What counts as a safe run, in the terms the claims use: the invariant of the
machine, the ends of a run (70_reset_and_hazards.md R173), and the controller's lock
(60_exceptions.md R155). -/

namespace Sys2Proof.Machine

/-- The script of a command the block accepts; a word it rejects has none (R91). -/
def commandScript (p : Params) : Instr → List MicroOp
  | .ewm m => ewmScript p m
  | .erm => ermScript p
  | .etm => etmScript p
  | .rds i => if indexLegal i then rdsScript p i else []
  | .wrs i => if indexLegal i then wrsScript p i else []
  | .opRead _ => []
  | .opWritePl _ => []
  | .opWriteSer _ => []
  | .opReadPl _ => []
  | .opReadSer _ => []
  | .opEraseSectors _ => []
  | .opProgSector _ => []
  | .opSoftProg _ => []
  | .reservedCode0 _ => []
  | .reservedCode6 _ => []
  | .reservedCode7 _ => []
  | .ermArg _ => []
  | .etmArg _ => []

/-- OUT holds the request of the micro-op SP names while PHASE = WAIT, and is empty otherwise
(R35, R36, R92). -/
def OutMatches (s : State) : Prop :=
  (s.phase = .wait → ∃ op, s.script[s.sp]? = some op ∧ s.out = some (request s op)) ∧
    (s.phase ≠ .wait → s.out = none)

/-- While a command runs, SCRIPT is the script of LCMD (R31) and SP is inside it (R102). -/
def ScriptRunning (s : State) : Prop :=
  s.phase ≠ .idle →
    s.script = commandScript s.params (decodeCmd s.lcmd) ∧ s.sp < s.script.length

/-- Every counter and port register fits its width (R12, R13, R28, R29, R33), SP does not pass 12
(R107), and the loop's count is part of the command's (R28, R33). -/
def WidthsKept (s : State) : Prop :=
  s.port < 2 ^ s.params.portW ∧ s.lport < 2 ^ s.params.portW ∧
    s.pollcnt < 2 ^ s.params.pollcntW ∧ s.plc < 2 ^ s.params.pollcntW ∧
    s.pollLimit < 2 ^ s.params.pollcntW ∧ s.sp ≤ 12 ∧ s.plc ≤ s.pollcnt

/-- Every address of the memory is below `n`. -/
def memBelow (n : Nat) : Memory → Bool
  | [] => true
  | (k, _) :: m => decide (k < n) && memBelow n m

/-- The NVM is canonical and holds no byte outside its 40 (R6). -/
def nvmWf (m : Memory) : Bool := Memory.wf m && memBelow 40 m

/-- The ports of the controller list are at least `lo` and strictly rise, and each NVM is well
formed. -/
def portsWf : Nat → List (Nat × Controller) → Bool
  | _, [] => true
  | lo, (k, c) :: t => decide (lo ≤ k) && nvmWf c.nvm && portsWf (k + 1) t

/-- All memory is in its canonical form. -/
def MemoryKept (s : State) : Prop :=
  Memory.wf s.hostMem = true ∧ Memory.wf s.stage = true ∧ portsWf 0 s.ctrls = true

/-- The invariant of the machine. -/
def Inv (s : State) : Prop := OutMatches s ∧ ScriptRunning s ∧ WidthsKept s ∧ MemoryKept s

/-- The controller ignores control writes: *locked* (R155). -/
def locked (p : Params) (c : Controller) : Bool := c.pwd != p.pwdUnlock

/-- A host program has ended: no action is left and the block is IDLE (R173). -/
def ended (s : State) : Bool := s.prog.isEmpty && !busy s

/-- A successful end: the program returned OK and no model fault is recorded (R148, R173). -/
def endedWell (s : State) : Bool :=
  ended s && decide (s.hostResult = some .ok) && decide (s.recorded = Recorded.none)

/-- The host's next move, if `sched` leaves it to the default order, is not possible now: the
environment moves. -/
def envMovesNext (s : State) : Prop := s.sched = [] ∧ hostReady s = false

/-- The environment moves next, at `u`: in the default order, or because `sched` names it, whether or
not the host could act; `u` is `s` with that entry of `sched` taken off (log 1). -/
def EnvMoves (s u : State) : Prop :=
  (envMovesNext s ∧ u = s) ∨ ∃ sc, s.sched = .env :: sc ∧ u = { s with sched := sc }

/-- The answer the environment gives to `req`: the one fixed in `answers`, the draw of the
unconstrained environment, or the `ok` of the reference controller with what it reads back. -/
def envAnswer (s : State) (req : Request) : EnvMove :=
  (pick s).getD (.ok (refData s.params s.draws req (controller s)))

/-- The controllers once LPORT's has taken the transaction `req`, answered `ok` or `error`: that of
LPORT is what `controllerAfter` gives, every other is as it was (R50, R158). -/
def ctrlsAfter (req : Request) (ok : Bool) (s : State) : List (Nat × Controller) :=
  portSet s.ctrls s.lport (controllerAfter s.envMode s.params s.draws req ok (controller s))

/-- `n` steps lead from `s` to `t`, none of them a fault or a refusal. -/
def Reaches : Nat → State → State → Prop
  | 0, s, t => s = t
  | n + 1, s, t => ∃ u, step s = .next u ∧ Reaches n u t

end Sys2Proof.Machine
end

