-- ==== Sys2Proof/Certificates/Slice0/Obligations.lean ====
section
/-! DEFINITION. The statements for the provers, from the numbered rules of spec/. -/

open Sys2Proof Sys2Proof.Machine

/-! ### Encoding -/

/-- R73, R77, R83: at least one word of every row of the opcode table, written out from the spec's
encodings and from the vectors of 95_test_vectors.md 2.1. -/
def Obligations.TableWordsDecode : Prop :=
  decodeCmd 0b11111001#8 = .ewm 0b11111#5 ∧ decodeCmd 0b00001001#8 = .ewm 0b00001#5 ∧
  decodeCmd 0b00000010#8 = .erm ∧ decodeCmd 0b00000011#8 = .etm ∧
  decodeCmd 0b00100100#8 = .rds 4#5 ∧ decodeCmd 0b00101100#8 = .rds 5#5 ∧
  decodeCmd 0b00100101#8 = .wrs 4#5 ∧ decodeCmd 0b00101101#8 = .wrs 5#5 ∧
  decodeCmd 0b00000000#8 = .reservedCode0 0#5 ∧ decodeCmd 0b00000110#8 = .reservedCode6 0#5 ∧
  decodeCmd 0b11111111#8 = .reservedCode7 31#5 ∧ decodeCmd 0b00001010#8 = .ermArg 1#5 ∧
  decodeCmd 0b11111011#8 = .etmArg 31#5 ∧
  decodeCtrl1 0b00000000#8 = .opRead 0#5 ∧ decodeCtrl1 0b00000001#8 = .opWritePl 0#5 ∧
  decodeCtrl1 0b11111010#8 = .opWriteSer 0b11111#5 ∧ decodeCtrl1 0b00000011#8 = .opReadPl 0#5 ∧
  decodeCtrl1 0b00000100#8 = .opReadSer 0#5 ∧ decodeCtrl1 0b00000101#8 = .opEraseSectors 0#5 ∧
  decodeCtrl1 0b00000110#8 = .opProgSector 0#5 ∧ decodeCtrl1 0b00000111#8 = .opSoftProg 0#5

/-- R77, R83: decoding the word of a well-formed instruction, in the format of its row, gives the
instruction back, for every operand value, and uses exactly that one byte. -/
def Obligations.DecodeOfEncode : Prop :=
  ∀ (i : Instr) (rest : List Byte), i.wf = true →
    decode (formatOf i) (encode i :: rest) = .ok (i, rest)

/-- R77, R86: in each format all 256 words decode, to a well-formed instruction of that format
whose word is the one read; of the command words "That is 44 legal words; the other 212 are
rejected." -/
def Obligations.DecodingIsTotal : Prop :=
  (∀ (f : Format) (b : Byte),
    (decodeAs f b).wf = true ∧ formatOf (decodeAs f b) = f ∧ encode (decodeAs f b) = b) ∧
  ((List.range 256).filter fun n => (decodeCmd (BitVec.ofNat 8 n)).legal).length = 44 ∧
    ((List.range 256).filter fun n => !(decodeCmd (BitVec.ofNat 8 n)).legal).length = 212

/-- R87: each command mnemonic assembles to its word, and the assembler refuses RDS and WRS with
i > 4. -/
def Obligations.AssemblerWords : Prop :=
  (∀ m : BitVec 5, assemble (.ewm m) = some ((m.setWidth 8 <<< 3) ||| 1#8)) ∧
  assemble .erm = some 0x02#8 ∧ assemble .etm = some 0x03#8 ∧
  (∀ i : BitVec 5, i.toNat ≤ 4 →
    assemble (.rds i) = some ((i.setWidth 8 <<< 3) ||| 4#8) ∧
      assemble (.wrs i) = some ((i.setWidth 8 <<< 3) ||| 5#8)) ∧
  (∀ i : BitVec 5, 4 < i.toNat → assemble (.rds i) = none ∧ assemble (.wrs i) = none)

/-- R105, R106: no bit of a mask, an opcode or a sector index is lost by the codec, the two fields
of CTRL_1 are disjoint, and a submit sets the request bit and neither SOS nor bit 3. -/
def Obligations.CodecFields : Prop :=
  (∀ (m : BitVec 5) (op : BitVec 3),
    ctrl1 m op = ((m.setWidth 8 <<< 3) &&& 0xF8#8) ||| (op.setWidth 8 &&& 0x07#8) ∧
      ((m.setWidth 8 <<< 3) &&& 0xF8#8) &&& (op.setWidth 8 &&& 0x07#8) = 0#8 ∧
      (m.setWidth 8 <<< 3) &&& 0xF8#8 = m.setWidth 8 <<< 3 ∧
      fieldHigh (ctrl1 m op) = m ∧ fieldLow (ctrl1 m op) = op) ∧
  (∀ i : BitVec 5, ctrl0Submit i = 0xE0#8 ||| (i.setWidth 8 &&& 0x07#8)) ∧
  (∀ i : BitVec 5, i.toNat ≤ 4 →
    (ctrl0Submit i).toNat = 0xE0 + i.toNat ∧ sectorSelect (ctrl0Submit i) = i.toNat ∧
      requestBit (ctrl0Submit i) = true ∧ ctrl0Submit i &&& 0x18#8 = 0#8)

/-! ### The step -/

/-- R21, R77: when the host writes a command word while PHASE = IDLE, the step executes the
instruction the word decodes to, at the state with the host's action taken and the word in CMD. -/
def Obligations.StepRunsTheCommandWritten : Prop :=
  ∀ (s : State) (c : Byte) (rest : List HostAction), s.prog = .cmd c :: rest → s.phase = .idle →
    (s.sched = [] → step s = exec (decodeCmd c) { s with prog := rest, cmd := c }) ∧
    (∀ sc, s.sched = .host :: sc →
      step s = exec (decodeCmd c) { s with sched := sc, prog := rest, cmd := c })

/-- R132: when the environment moves and the reference controller has an opcode in progress, the
step executes that opcode, with C1's SER field. -/
def Obligations.StepRunsTheOpcodeInProgress : Prop :=
  ∀ (s : State) (op : BitVec 3), s.envMode = .reference →
    (controller s).busyop = some op →
    (envMovesNext s →
      step s = exec (decodeCtrl1 (packFields (fieldHigh (controller s).c1) op)) s) ∧
    (∀ sc, s.sched = .env :: sc →
      step s = exec (decodeCtrl1 (packFields (fieldHigh (controller s).c1) op))
        { s with sched := sc })

/-- The word placed by `withFetchWord` is the instruction the next step runs (log 17: the model's
own convention). -/
def Obligations.FetchWordIsRunNext : Prop :=
  ∀ (s : State) (w : Nat) (i : Instr), decodeTableWord 8 w = some i →
    step (s.withFetchWord 8 w) =
      exec i { s with phase := .idle, out := none, cmd := BitVec.ofNat 8 w }

/-- R21, R88: what the host holds while the engine is busy. A CMD write is not accepted and has no
effect; WAIT holds until BUSY = 0, and is passed then. -/
def Obligations.HeldHostActions : Prop :=
  (∀ (s : State) (c : Byte) (rest : List HostAction) (sc : List Agent),
    s.phase ≠ .idle → s.prog = .cmd c :: rest → s.sched = .host :: sc →
      step s = .next { s with sched := sc } ∧ exec (decodeCmd c) s = .next s) ∧
  (∀ (s : State) (rest : List HostAction), s.prog = .wait :: rest →
    (s.phase = .idle → s.sched = [] → step s = .next { s with prog := rest }) ∧
    (∀ sc, s.phase ≠ .idle → s.sched = .host :: sc → step s = .next { s with sched := sc }))

/-- R113, R152, R160: an idle block makes no move of its own. With no host action to come and no
opcode in progress at the controller, a step changes nothing: after an abort no transaction and no
ExitTestMode is issued. (That an opcode in progress at a port other than LPORT stands still is
the model's choice, log 35.) -/
def Obligations.IdleBlockStaysIdle : Prop :=
  ∀ (s : State), s.phase = .idle → s.prog = [] → s.sched = [] → opcodeInProgress s = none →
    step s = .next s

/-! ### Acceptance of the commands -/

/-- R108, R91: EnterWriteMode(m), accepted, starts the twelve micro-ops of R108; every other field
is unchanged. -/
def Obligations.EnterWriteModeStarts : Prop :=
  ∀ (m : BitVec 5) (s : State), s.phase = .idle →
    exec (.ewm m) s = .next { s with
      lcmd := (m.setWidth 8 <<< 3) ||| 0x01#8, lport := s.port, pollcnt := 0, plc := 0
      recorded :=
        if s.portWritten then s.recorded else { s.recorded with portUnwritten := true }
      script :=
        [ .w1 s.params.addrPwd s.params.pwdUnlock
        , .w1 s.params.addrCtrl0 0x00#8
        , .w1 s.params.addrCtrl0 0xC0#8
        , .w1 s.params.addrCtrl1 ((m.setWidth 8 <<< 3) ||| 0x02#8)
        , .w1 s.params.addrCtrl0 0xE0#8
        , .poll s.params.addrCtrl0
        , .w1 s.params.addrCtrl1 0x07#8
        , .w1 s.params.addrCtrl0 0xE0#8
        , .poll s.params.addrCtrl0
        , .w1 s.params.addrCtrl1 0x05#8
        , .w1 s.params.addrCtrl0 0xE0#8
        , .poll s.params.addrCtrl0 ]
      sp := 0, phase := .issue }

/-- R111, R112, R91: EnterReadMode and ExitTestMode, accepted, start their scripts; every other
field is unchanged. -/
def Obligations.ReadModeAndExitStart : Prop :=
  ∀ (s : State), s.phase = .idle →
    exec .erm s = .next { s with
      lcmd := 0x02#8, lport := s.port, pollcnt := 0, plc := 0
      recorded :=
        if s.portWritten then s.recorded else { s.recorded with portUnwritten := true }
      script :=
        [ .w1 s.params.addrPwd s.params.pwdUnlock
        , .w1 s.params.addrCtrl0 0x00#8
        , .w1 s.params.addrCtrl0 0xC0#8 ]
      sp := 0, phase := .issue } ∧
    exec .etm s = .next { s with
      lcmd := 0x03#8, lport := s.port, pollcnt := 0, plc := 0
      recorded :=
        if s.portWritten then s.recorded else { s.recorded with portUnwritten := true }
      script :=
        [ .w2 s.params.addrCtrl0 s.params.exitCtrl0 0x00#8
        , .w1 s.params.addrPwd 0x00#8 ]
      sp := 0, phase := .issue }

/-- R114, R91: ReadSector(i) with i in 0..4, accepted, starts the six micro-ops of R114; every
other field is unchanged. -/
def Obligations.ReadSectorStarts : Prop :=
  ∀ (i : BitVec 5) (s : State), s.phase = .idle → i.toNat ≤ 4 →
    exec (.rds i) s = .next { s with
      lcmd := (i.setWidth 8 <<< 3) ||| 0x04#8, lport := s.port, pollcnt := 0, plc := 0
      recorded :=
        if s.portWritten then s.recorded else { s.recorded with portUnwritten := true }
      script :=
        [ .w1 s.params.addrCtrl0 0xC0#8
        , .w1 s.params.addrCtrl1 0x00#8
        , .w1 s.params.addrCtrl0 (0xE0#8 ||| i.setWidth 8)
        , .poll s.params.addrCtrl0
        , .r8sb s.params.addrRwbuf
        , .w1 s.params.addrCtrl0 0x00#8 ]
      sp := 0, phase := .issue }

/-- R117, R91: WriteSector(i) with i in 0..4, accepted, starts the eight micro-ops of R117; every
other field is unchanged. -/
def Obligations.WriteSectorStarts : Prop :=
  ∀ (i : BitVec 5) (s : State), s.phase = .idle → i.toNat ≤ 4 →
    exec (.wrs i) s = .next { s with
      lcmd := (i.setWidth 8 <<< 3) ||| 0x05#8, lport := s.port, pollcnt := 0, plc := 0
      recorded :=
        if s.portWritten then s.recorded else { s.recorded with portUnwritten := true }
      script :=
        [ .w8sb s.params.addrRwbuf
        , .w1 s.params.addrCtrl0 0xC0#8
        , .w1 s.params.addrCtrl1 0x01#8
        , .w1 s.params.addrCtrl0 0xE0#8
        , .poll s.params.addrCtrl0
        , .w1 s.params.addrCtrl1 0x06#8
        , .w1 s.params.addrCtrl0 (0xE0#8 ||| i.setWidth 8)
        , .poll s.params.addrCtrl0 ]
      sp := 0, phase := .issue }

/-- R75, R91, R144: RDS and WRS with an index above 4 are rejected with ArgError; PHASE stays IDLE,
no transaction is issued, SB is unchanged. -/
def Obligations.BadIndexRejected : Prop :=
  ∀ (i : BitVec 5) (s : State), s.phase = .idle → 4 < i.toNat →
    exec (.rds i) s = .next { s with
      lcmd := (i.setWidth 8 <<< 3) ||| 0x04#8, lport := s.port, pollcnt := 0, plc := 0
      recorded :=
        if s.portWritten then s.recorded else { s.recorded with portUnwritten := true }
      result := .argError } ∧
    exec (.wrs i) s = .next { s with
      lcmd := (i.setWidth 8 <<< 3) ||| 0x05#8, lport := s.port, pollcnt := 0, plc := 0
      recorded :=
        if s.portWritten then s.recorded else { s.recorded with portUnwritten := true }
      result := .argError }

/-- R76, R84, R91, R144: the reserved words (codes 0, 6 and 7, and ERM and ETM with a nonzero ARG)
are rejected with IllegalCommand; PHASE stays IDLE, no transaction is issued, SB is unchanged. -/
def Obligations.ReservedWordsRejected : Prop :=
  ∀ (x : BitVec 5) (s : State), s.phase = .idle →
    let rejected (code : Byte) : State := { s with
      lcmd := (x.setWidth 8 <<< 3) ||| code, lport := s.port, pollcnt := 0, plc := 0
      recorded :=
        if s.portWritten then s.recorded else { s.recorded with portUnwritten := true }
      result := .illegalCommand }
    exec (.reservedCode0 x) s = .next (rejected 0x00#8) ∧
      exec (.reservedCode6 x) s = .next (rejected 0x06#8) ∧
      exec (.reservedCode7 x) s = .next (rejected 0x07#8) ∧
      exec (.ermArg x) s = .next (rejected 0x02#8) ∧
      exec (.etmArg x) s = .next (rejected 0x03#8)

/-- R91, R84, R97: the frame of every command word, in every state. SB, the trace, the outstanding
transaction, every controller (so every NVM byte), the host's storage, PORT, POLL_LIMIT and the
host's and environment's queues are unchanged by acceptance, whatever the word. -/
def Obligations.AcceptanceFrame : Prop :=
  ∀ (c : Byte) (s t : State), exec (decodeCmd c) s = .next t →
    t.sb = s.sb ∧ t.sbWritten = s.sbWritten ∧ t.trace = s.trace ∧ t.out = s.out ∧
      t.ctrls = s.ctrls ∧ t.hostMem = s.hostMem ∧ t.stage = s.stage ∧
      (∀ a, memRead t.hostMem a = memRead s.hostMem a) ∧
      t.params = s.params ∧ t.cmd = s.cmd ∧ t.port = s.port ∧ t.portWritten = s.portWritten ∧
      t.pollLimit = s.pollLimit ∧ t.prog = s.prog ∧ t.hostRead = s.hostRead ∧
      t.hostResult = s.hostResult ∧ t.sched = s.sched ∧ t.envMode = s.envMode ∧
      t.answers = s.answers ∧ t.draws = s.draws

/-! ### The engine

A statement about the environment's turn is for every `s` and `u` with `EnvMoves s u`: `u` is `s`
itself in the default order, or `s` with the entry of `sched` that names the environment taken off.
That an opcode in progress at another port stands still, so that such a step changes no other port's
controller, is the model's choice (log 35). -/

/-- R92, R96 to R99: while PHASE = ISSUE, when the environment takes the request, `OUT <- req;
PHASE <- WAIT`, on the latched port, with the request of the micro-op SP names; nothing else of the
block changes (a W8SB with an unwritten SB byte is recorded, R97; that it is recorded when the
request is taken is log 6's choice). -/
def Obligations.IssuePresentsTheRequest : Prop :=
  ∀ (s u : State) (op : MicroOp), EnvMoves s u → opcodeInProgress u = none →
    u.phase = .issue → u.script[u.sp]? = some op → pick u ≠ some .hold →
    step s = .next { u with
      out := some (match op with
        | .w1 a v => ⟨u.lport, .wr, a, 1, [v]⟩
        | .w2 a v0 v1 => ⟨u.lport, .wr, a, 2, [v0, v1]⟩
        | .w8sb a => ⟨u.lport, .wr, a, 8,
            [u.sb.b0, u.sb.b1, u.sb.b2, u.sb.b3, u.sb.b4, u.sb.b5, u.sb.b6, u.sb.b7]⟩
        | .r8sb a => ⟨u.lport, .rd, a, 8, []⟩
        | .poll a => ⟨u.lport, .rd, a, 1, []⟩)
      phase := .wait
      recorded := match op with
        | .w8sb _ =>
          if u.sbWritten = 0xFF#8 then u.recorded else { u.recorded with sbUnwritten := true }
        | _ => u.recorded
      draws := u.draws + drawStride }

/-- R38, R169: the environment may withhold, by a move that `answers` fixes or, where it fixes none,
by the unconstrained environment's draw; the engine then stays where it is, in ISSUE or in WAIT, and
nothing of the block changes. -/
def Obligations.EngineWaitsForTheEnvironment : Prop :=
  ∀ (s u : State) (op : MicroOp) (req : Request),
    EnvMoves s u → opcodeInProgress u = none → pick u = some .hold →
    u.script[u.sp]? = some op → (u.phase = .issue ∨ u.phase = .wait ∧ u.out = some req) →
    step s = .next { u with
      answers := match u.answers with
        | some .hold :: rest => rest
        | as => as
      draws := u.draws + drawStride }

/-- R94, R95: `advance()` moves SP up by one; at the end of the script the command completes with
RESULT = OK and PHASE = IDLE; else PLC is cleared if the next micro-op is a POLL and PHASE is
ISSUE. Nothing else changes. -/
def Obligations.AdvanceMovesSpByOne : Prop :=
  ∀ (s : State),
    (s.sp + 1 = s.script.length →
      advance s = { s with sp := s.sp + 1, result := .ok, phase := .idle }) ∧
    (∀ op, s.script[s.sp + 1]? = some op →
      advance s = { s with
        sp := s.sp + 1
        plc := match op with
          | .poll _ => 0
          | _ => s.plc
        phase := .issue })

/-- R93, R96, R97, R50: a write micro-op answered `ok`, whatever gives the answer, advances; SB is
unchanged, the transaction enters the trace, OUT is emptied, and of the controllers that of LPORT
alone moves on. -/
def Obligations.WriteAnsweredOkAdvances : Prop :=
  ∀ (s u : State) (op : MicroOp) (req : Request) (d : Sector),
    EnvMoves s u → opcodeInProgress u = none → u.phase = .wait → u.out = some req →
    u.script[u.sp]? = some op → req = request u op → req.dir = .wr → envAnswer u req = .ok d →
    ctrl0Refused u.envMode u.params req (controller u) = false →
    step s = .next (advance { u with
      out := none, trace := u.trace ++ [⟨req, some (.ok [])⟩], answers := u.answers.tail
      draws := u.draws + drawStride, ctrls := ctrlsAfter req true u })

/-- R98: an R8SB reads 8 bytes at its address; answered `ok`, whatever gives the answer, it loads all
eight SB bytes at once and advances; answered `error` it raises TransportError and SB is
unchanged. -/
def Obligations.SectorReadLoadsSb : Prop :=
  ∀ (s u : State) (a : Byte),
    EnvMoves s u → opcodeInProgress u = none → u.script[u.sp]? = some (.r8sb a) →
    let req : Request := ⟨u.lport, .rd, a, 8, []⟩
    (u.phase = .issue → pick u ≠ some .hold →
      ∃ t, step s = .next t ∧ t.out = some req ∧ t.phase = .wait ∧ t.sb = u.sb) ∧
    (∀ d, u.phase = .wait → u.out = some req → envAnswer u req = .ok d →
      step s = .next (advance { u with
        sb := d, sbWritten := 0xFF#8, out := none
        trace := u.trace ++
          [⟨req, some (.ok [d.b0, d.b1, d.b2, d.b3, d.b4, d.b5, d.b6, d.b7])⟩]
        answers := u.answers.tail, draws := u.draws + drawStride
        ctrls := ctrlsAfter req true u })) ∧
    (u.phase = .wait → u.out = some req → envAnswer u req = .error →
      step s = .next { u with
        result := .transportError, out := none, phase := .idle
        trace := u.trace ++ [⟨req, some .error⟩]
        answers := u.answers.tail, draws := u.draws + drawStride
        ctrls := ctrlsAfter req false u })

/-- R99, R80: a POLL reads 1 byte at its address. Answered `error` it raises TransportError.
Answered `ok` with v, whatever gives the answer, it counts up PLC and POLLCNT (saturating), advances
if bit 5 of v is 0, else raises TimeoutError if POLL_LIMIT ≠ 0 and PLC has reached it, else polls
again with the same SP. No other bit of v matters. -/
def Obligations.PollRule : Prop :=
  ∀ (s u : State) (a : Byte),
    EnvMoves s u → opcodeInProgress u = none → u.script[u.sp]? = some (.poll a) →
    let req : Request := ⟨u.lport, .rd, a, 1, []⟩
    (u.phase = .issue → pick u ≠ some .hold →
      ∃ t, step s = .next t ∧ t.out = some req ∧ t.phase = .wait ∧ t.sb = u.sb) ∧
    (u.phase = .wait → u.out = some req → envAnswer u req = .error →
      step s = .next { u with
        result := .transportError, out := none, phase := .idle
        trace := u.trace ++ [⟨req, some .error⟩]
        answers := u.answers.tail, draws := u.draws + drawStride
        ctrls := ctrlsAfter req false u }) ∧
    (∀ d, u.phase = .wait → u.out = some req → envAnswer u req = .ok d →
        let v : State := { u with
          plc := min (u.plc + 1) (2 ^ u.params.pollcntW - 1)
          pollcnt := min (u.pollcnt + 1) (2 ^ u.params.pollcntW - 1)
          out := none, trace := u.trace ++ [⟨req, some (.ok [d.b0])⟩]
          answers := u.answers.tail, draws := u.draws + drawStride
          ctrls := ctrlsAfter req true u }
        step s = .next (
          if d.b0.getLsbD 5 = false then advance v
          else if v.pollLimit ≠ 0 ∧ v.plc ≥ v.pollLimit then
            { v with result := .timeoutError, phase := .idle }
          else { v with phase := .issue }))

/-- R145, R149, R150, R170: any micro-op whose transaction is answered `error`, by a fixed answer or
by the unconstrained environment's draw, aborts the command with TransportError: OUT empty, PHASE
IDLE, SB, POLLCNT, LCMD, LPORT, SP and PLC kept; the failing transaction is the last of the trace; of
the controllers that of LPORT alone moves on. -/
def Obligations.ErrorAborts : Prop :=
  ∀ (s u : State) (op : MicroOp) (req : Request),
    EnvMoves s u → opcodeInProgress u = none → u.phase = .wait → u.out = some req →
    u.script[u.sp]? = some op → envAnswer u req = .error →
    step s = .next { u with
      result := .transportError, out := none, phase := .idle
      trace := u.trace ++ [⟨req, some .error⟩]
      answers := u.answers.tail, draws := u.draws + drawStride, ctrls := ctrlsAfter req false u }

/-- R100, R99, R146, R103: the busy-wait law. Let a POLL read bit 5 = 1 on its first N polls. If bit
5 = 0 on poll N + 1, and there is no cap or N + 1 does not pass it, the engine issues exactly N + 1
reads of length 1 at the POLL's address and then advances. If N is the cap, it raises TimeoutError
after exactly that many reads. Without a cap it has issued N reads, is still at the same micro-op,
and is about to read again, whatever N. The controllers of the other ports are as they were (that
they stand still is log 35's, the model's choice). -/
def Obligations.BusyWaitLaw : Prop :=
  ∀ (s : State) (a : Byte) (busyReads : List Sector) (rest : List (Option EnvMove)),
    s.sched = [] → s.prog = [] → s.envMode = .free → s.phase = .issue →
    s.plc = 0 → s.pollLimit < 2 ^ s.params.pollcntW → s.script[s.sp]? = some (.poll a) →
    (∀ d ∈ busyReads, d.b0.getLsbD 5 = true) →
    let read (d : Sector) : TraceEntry := ⟨⟨s.lport, .rd, a, 1, []⟩, some (.ok [d.b0])⟩
    (∀ clear : Sector, clear.b0.getLsbD 5 = false →
      (s.pollLimit = 0 ∨ busyReads.length + 1 ≤ s.pollLimit) →
      s.answers = busyReads.map (fun d => some (.ok d)) ++ some (.ok clear) :: rest →
      ∃ ctrls draws, (∀ q, q ≠ s.lport → portGet ctrls q = portGet s.ctrls q) ∧
        Reaches (2 * (busyReads.length + 1)) s (advance { s with
          plc := min (busyReads.length + 1) (2 ^ s.params.pollcntW - 1)
          pollcnt := min (s.pollcnt + (busyReads.length + 1)) (2 ^ s.params.pollcntW - 1)
          out := none, trace := s.trace ++ (busyReads ++ [clear]).map read
          answers := rest, draws := draws, ctrls := ctrls })) ∧
    (1 ≤ s.pollLimit → busyReads.length = s.pollLimit →
      s.answers = busyReads.map (fun d => some (.ok d)) ++ rest →
      ∃ t, Reaches (2 * busyReads.length) s t ∧ t.phase = .idle ∧ t.result = .timeoutError ∧
        t.plc = s.pollLimit ∧ t.sp = s.sp ∧ t.sb = s.sb ∧ t.out = none ∧
        (∀ q, q ≠ s.lport → portGet t.ctrls q = portGet s.ctrls q) ∧
        t.trace = s.trace ++ busyReads.map read) ∧
    (s.pollLimit = 0 → s.answers = busyReads.map (fun d => some (.ok d)) ++ rest →
      ∃ t, Reaches (2 * busyReads.length) s t ∧ t.phase = .issue ∧ t.sp = s.sp ∧
        t.script = s.script ∧ t.sb = s.sb ∧
        (∀ q, q ≠ s.lport → portGet t.ctrls q = portGet s.ctrls q) ∧
        t.trace = s.trace ++ busyReads.map read)

/-! ### Whole commands under the unconstrained environment -/

/-- R108: EnterWriteMode(m) run to its end, every transaction answered `ok` and every first poll
reading bit 5 = 0: exactly the twelve transactions of R108 in order, RESULT = OK, POLLCNT = 3 (where
the counter is wide enough for it), SB unchanged. -/
def Obligations.EnterWriteModeRuns : Prop :=
  ∀ (m : BitVec 5) (s : State) (c : Byte)
    (d0 d1 d2 d3 d4 d5 d6 d7 d8 d9 d10 d11 : Sector),
    c = (m.setWidth 8 <<< 3) ||| 0x01#8 →
    s.sched = [] → s.envMode = .free → s.phase = .idle → s.prog = [.cmd c] →
    s.answers = [d0, d1, d2, d3, d4, d5, d6, d7, d8, d9, d10, d11].map (fun d => some (.ok d)) →
    d5.b0.getLsbD 5 = false → d8.b0.getLsbD 5 = false → d11.b0.getLsbD 5 = false →
    ∃ t, Reaches 25 s t ∧ t.phase = .idle ∧ t.result = .ok ∧
      t.pollcnt = min 3 (2 ^ s.params.pollcntW - 1) ∧ t.sb = s.sb ∧
      t.trace = s.trace ++
        [ ⟨⟨s.port, .wr, s.params.addrPwd, 1, [s.params.pwdUnlock]⟩, some (.ok [])⟩
        , ⟨⟨s.port, .wr, s.params.addrCtrl0, 1, [0x00#8]⟩, some (.ok [])⟩
        , ⟨⟨s.port, .wr, s.params.addrCtrl0, 1, [0xC0#8]⟩, some (.ok [])⟩
        , ⟨⟨s.port, .wr, s.params.addrCtrl1, 1, [(m.setWidth 8 <<< 3) ||| 0x02#8]⟩, some (.ok [])⟩
        , ⟨⟨s.port, .wr, s.params.addrCtrl0, 1, [0xE0#8]⟩, some (.ok [])⟩
        , ⟨⟨s.port, .rd, s.params.addrCtrl0, 1, []⟩, some (.ok [d5.b0])⟩
        , ⟨⟨s.port, .wr, s.params.addrCtrl1, 1, [0x07#8]⟩, some (.ok [])⟩
        , ⟨⟨s.port, .wr, s.params.addrCtrl0, 1, [0xE0#8]⟩, some (.ok [])⟩
        , ⟨⟨s.port, .rd, s.params.addrCtrl0, 1, []⟩, some (.ok [d8.b0])⟩
        , ⟨⟨s.port, .wr, s.params.addrCtrl1, 1, [0x05#8]⟩, some (.ok [])⟩
        , ⟨⟨s.port, .wr, s.params.addrCtrl0, 1, [0xE0#8]⟩, some (.ok [])⟩
        , ⟨⟨s.port, .rd, s.params.addrCtrl0, 1, []⟩, some (.ok [d11.b0])⟩ ]

/-- R111, R112: EnterReadMode and ExitTestMode run to their ends, every transaction answered `ok`:
their three and two transactions in order, RESULT = OK, POLLCNT = 0. -/
def Obligations.ReadModeAndExitRun : Prop :=
  ∀ (s : State) (d0 d1 d2 : Sector), s.sched = [] → s.envMode = .free → s.phase = .idle →
    (s.prog = [.cmd 0x02#8] →
      s.answers = [d0, d1, d2].map (fun d => some (.ok d)) →
      ∃ t, Reaches 7 s t ∧ t.phase = .idle ∧ t.result = .ok ∧ t.pollcnt = 0 ∧ t.sb = s.sb ∧
        t.trace = s.trace ++
          [ ⟨⟨s.port, .wr, s.params.addrPwd, 1, [s.params.pwdUnlock]⟩, some (.ok [])⟩
          , ⟨⟨s.port, .wr, s.params.addrCtrl0, 1, [0x00#8]⟩, some (.ok [])⟩
          , ⟨⟨s.port, .wr, s.params.addrCtrl0, 1, [0xC0#8]⟩, some (.ok [])⟩ ]) ∧
    (s.prog = [.cmd 0x03#8] →
      s.answers = [d0, d1].map (fun d => some (.ok d)) →
      ∃ t, Reaches 5 s t ∧ t.phase = .idle ∧ t.result = .ok ∧ t.pollcnt = 0 ∧ t.sb = s.sb ∧
        t.trace = s.trace ++
          [ ⟨⟨s.port, .wr, s.params.addrCtrl0, 2, [s.params.exitCtrl0, 0x00#8]⟩, some (.ok [])⟩
          , ⟨⟨s.port, .wr, s.params.addrPwd, 1, [0x00#8]⟩, some (.ok [])⟩ ])

/-- R114: ReadSector(i) run to its end, every transaction answered `ok` and the first poll reading
bit 5 = 0: the six transactions in order, SB holds the eight bytes the RWBUF read returned,
RESULT = OK. -/
def Obligations.ReadSectorRuns : Prop :=
  ∀ (i : BitVec 5) (s : State) (c : Byte) (d0 d1 d2 d3 d4 d5 : Sector), i.toNat ≤ 4 →
    c = (i.setWidth 8 <<< 3) ||| 0x04#8 →
    s.sched = [] → s.envMode = .free → s.phase = .idle → s.prog = [.cmd c] →
    s.answers = [d0, d1, d2, d3, d4, d5].map (fun d => some (.ok d)) →
    d3.b0.getLsbD 5 = false →
    ∃ t, Reaches 13 s t ∧ t.phase = .idle ∧ t.result = .ok ∧ t.sb = d4 ∧
      t.pollcnt = min 1 (2 ^ s.params.pollcntW - 1) ∧
      t.trace = s.trace ++
        [ ⟨⟨s.port, .wr, s.params.addrCtrl0, 1, [0xC0#8]⟩, some (.ok [])⟩
        , ⟨⟨s.port, .wr, s.params.addrCtrl1, 1, [0x00#8]⟩, some (.ok [])⟩
        , ⟨⟨s.port, .wr, s.params.addrCtrl0, 1, [0xE0#8 ||| i.setWidth 8]⟩, some (.ok [])⟩
        , ⟨⟨s.port, .rd, s.params.addrCtrl0, 1, []⟩, some (.ok [d3.b0])⟩
        , ⟨⟨s.port, .rd, s.params.addrRwbuf, 8, []⟩,
            some (.ok [d4.b0, d4.b1, d4.b2, d4.b3, d4.b4, d4.b5, d4.b6, d4.b7])⟩
        , ⟨⟨s.port, .wr, s.params.addrCtrl0, 1, [0x00#8]⟩, some (.ok [])⟩ ]

/-- R117, R118: WriteSector(i) run to its end, every transaction answered `ok` and every first poll
reading bit 5 = 0: the eight transactions in order, the data write of SB first, SB unchanged,
RESULT = OK. -/
def Obligations.WriteSectorRuns : Prop :=
  ∀ (i : BitVec 5) (s : State) (c : Byte) (d0 d1 d2 d3 d4 d5 d6 d7 : Sector), i.toNat ≤ 4 →
    c = (i.setWidth 8 <<< 3) ||| 0x05#8 →
    s.sched = [] → s.envMode = .free → s.phase = .idle → s.prog = [.cmd c] →
    s.answers = [d0, d1, d2, d3, d4, d5, d6, d7].map (fun d => some (.ok d)) →
    d4.b0.getLsbD 5 = false → d7.b0.getLsbD 5 = false →
    ∃ t, Reaches 17 s t ∧ t.phase = .idle ∧ t.result = .ok ∧ t.sb = s.sb ∧
      t.pollcnt = min 2 (2 ^ s.params.pollcntW - 1) ∧
      t.trace = s.trace ++
        [ ⟨⟨s.port, .wr, s.params.addrRwbuf, 8,
            [s.sb.b0, s.sb.b1, s.sb.b2, s.sb.b3, s.sb.b4, s.sb.b5, s.sb.b6, s.sb.b7]⟩,
            some (.ok [])⟩
        , ⟨⟨s.port, .wr, s.params.addrCtrl0, 1, [0xC0#8]⟩, some (.ok [])⟩
        , ⟨⟨s.port, .wr, s.params.addrCtrl1, 1, [0x01#8]⟩, some (.ok [])⟩
        , ⟨⟨s.port, .wr, s.params.addrCtrl0, 1, [0xE0#8]⟩, some (.ok [])⟩
        , ⟨⟨s.port, .rd, s.params.addrCtrl0, 1, []⟩, some (.ok [d4.b0])⟩
        , ⟨⟨s.port, .wr, s.params.addrCtrl1, 1, [0x06#8]⟩, some (.ok [])⟩
        , ⟨⟨s.port, .wr, s.params.addrCtrl0, 1, [0xE0#8 ||| i.setWidth 8]⟩, some (.ok [])⟩
        , ⟨⟨s.port, .rd, s.params.addrCtrl0, 1, []⟩, some (.ok [d7.b0])⟩ ]

/-! ### Whole commands against the reference controller -/

/-- R137, R140, R142, R108: against the reference controller, EnterWriteMode(m) leaves every sector
of m erased, every other sector as it was, and the controller unlocked. -/
def Obligations.ReferenceErase : Prop :=
  ∀ (m : BitVec 5) (s : State) (c : Byte), c = (m.setWidth 8 <<< 3) ||| 0x01#8 →
    s.params.Valid → MemoryKept s → s.sched = [] → s.answers = [] → s.envMode = .reference →
    s.phase = .idle → s.prog = [.cmd c] →
    (portGet s.ctrls s.port).busyop = none →
    ∃ n t, Reaches n s t ∧ t.phase = .idle ∧ t.result = .ok ∧
      locked t.params (portGet t.ctrls s.port) = false ∧
      ∀ i, i < 5 →
        (m.getLsbD i = true →
          nvmRead (portGet t.ctrls s.port) i = Sector.fill s.params.erasedByte ∧
            (portGet t.ctrls s.port).erased.getLsbD i = true) ∧
        (m.getLsbD i = false →
          nvmRead (portGet t.ctrls s.port) i = nvmRead (portGet s.ctrls s.port) i ∧
            (portGet t.ctrls s.port).erased.getLsbD i =
              (portGet s.ctrls s.port).erased.getLsbD i)

/-- R143, R141: against the unlocked reference controller, WriteSector(i) to an erased sector leaves
NVM[i] = SB and every other sector as it was. -/
def Obligations.ReferenceWrite : Prop :=
  ∀ (i : BitVec 5) (s : State) (c : Byte), i.toNat ≤ 4 → c = (i.setWidth 8 <<< 3) ||| 0x05#8 →
    s.params.Valid → MemoryKept s → s.sched = [] → s.answers = [] → s.envMode = .reference →
    s.phase = .idle → s.prog = [.cmd c] →
    (portGet s.ctrls s.port).busyop = none →
    locked s.params (portGet s.ctrls s.port) = false →
    (portGet s.ctrls s.port).erased.getLsbD i.toNat = true →
    ∃ n t, Reaches n s t ∧ t.phase = .idle ∧ t.result = .ok ∧ t.sb = s.sb ∧
      nvmRead (portGet t.ctrls s.port) i.toNat = s.sb ∧
      ∀ j, j ≠ i.toNat →
        nvmRead (portGet t.ctrls s.port) j = nvmRead (portGet s.ctrls s.port) j

/-- R143, R135: against the unlocked reference controller, ReadSector(i) leaves SB = NVM[i], the
NVM unchanged. -/
def Obligations.ReferenceRead : Prop :=
  ∀ (i : BitVec 5) (s : State) (c : Byte), i.toNat ≤ 4 → c = (i.setWidth 8 <<< 3) ||| 0x04#8 →
    s.params.Valid → MemoryKept s → s.sched = [] → s.answers = [] → s.envMode = .reference →
    s.phase = .idle → s.prog = [.cmd c] →
    (portGet s.ctrls s.port).busyop = none →
    locked s.params (portGet s.ctrls s.port) = false →
    ∃ n t, Reaches n s t ∧ t.phase = .idle ∧ t.result = .ok ∧
      t.sb = nvmRead (portGet s.ctrls s.port) i.toNat ∧
      (portGet t.ctrls s.port).nvm = (portGet s.ctrls s.port).nvm

/-- R131, R155, R111, R112: against the reference controller EnterReadMode leaves it unlocked with
CTRL_0 = 0xC0, and ExitTestMode leaves the password register 0x00, so that it is locked (unless
PWD_UNLOCK is 0x00: log 34), with CTRL_0 = EXIT_CTRL0 and CTRL_1 = 0x00 if it was unlocked. The
controller is in any state before, with no opcode in progress or one of the six that have an effect;
with read-PL or read-SER in progress, which a failed write may leave (log 10), the environment's next
move is the refusal of R138 and R139. -/
def Obligations.ReferenceModeCommands : Prop :=
  (∀ (s : State), s.params.Valid → MemoryKept s → s.sched = [] → s.answers = [] →
    s.envMode = .reference → s.phase = .idle →
    (∀ op, (portGet s.ctrls s.port).busyop = some op → op ≠ 3#3 ∧ op ≠ 4#3) →
    (s.prog = [.cmd 0x02#8] →
      ∃ n t, Reaches n s t ∧ t.phase = .idle ∧ t.result = .ok ∧
        locked t.params (portGet t.ctrls s.port) = false ∧
        (portGet t.ctrls s.port).c0 = 0xC0#8) ∧
    (s.prog = [.cmd 0x03#8] →
      ∃ n t, Reaches n s t ∧ t.phase = .idle ∧ t.result = .ok ∧
        (portGet t.ctrls s.port).pwd = 0x00#8 ∧
        (s.params.pwdUnlock ≠ 0x00#8 → locked t.params (portGet t.ctrls s.port) = true) ∧
        (locked s.params (portGet s.ctrls s.port) = false →
          (portGet t.ctrls s.port).c0 = s.params.exitCtrl0 ∧
            (portGet t.ctrls s.port).c1 = 0x00#8))) ∧
  (∀ (s u : State), EnvMoves s u → u.envMode = .reference →
    ((controller u).busyop = some 3#3 → step s = .refused .readPlUnspecified) ∧
    ((controller u).busyop = some 4#3 → step s = .refused .readSerUnspecified))

/-- R129, R143: for every 40-byte image, FLASH and then READ against the reference controller, with
no transport fault, put exactly the image into the host's destination. The run is in the default
order of moves (`sched = []`: the model's choice, log 1), each opcode completes in a step of its own
on the environment's next turn (log 15), and the host's storage is the model's (log 18). -/
def Obligations.FlashThenReadReturnsTheImage : Prop :=
  ∀ (img : List Byte) (s : State) (dst cap : Nat), img.length = 40 → 40 ≤ cap →
    s.params.Valid → MemoryKept s → s.sched = [] → s.answers = [] → s.envMode = .reference →
    s.phase = .idle → s.prog = flashProgram s.params img →
    (portGet s.ctrls s.port).busyop = none →
    ∃ n t, Reaches n s t ∧ ended t = true ∧ t.hostResult = some .ok ∧
      ∃ k u, Reaches k { t with prog := readProgram s.params dst cap, hostResult := none } u ∧
        ended u = true ∧ u.hostResult = some .ok ∧ memReadBytes u.hostMem dst 40 = img

/-! ### Invariants -/

/-- R31, R35, R6, R12, R28, R33, R102, R107: every step keeps the machine's invariant. -/
def Obligations.StepKeepsInv : Prop :=
  ∀ (s t : State), Inv s → step s = .next t → Inv t

/-- The machine's invariant holds right after reset. -/
def Obligations.InvAtReset : Prop := Inv State.reset

/-- R102: in a state that meets the invariant, no step faults: SP is always in range, and a
response always meets its request. -/
def Obligations.InvStepNeverFaults : Prop :=
  ∀ (s : State) (f : Fault), Inv s → step s ≠ .fault f

/-- R49, R59, R79, R82, R85: whatever the block presents on the bus is a write of PWD_UNLOCK or 0x00
to the password register, one of the five CTRL_0 values of R79, one of the CTRL_1 values of R82, the
two bytes of ExitTestMode, the eight SB bytes at RWBUF, a 1-byte read of CTRL_0 or an 8-byte read of
RWBUF, on the latched port. With valid parameters no value written to CTRL_0 has SOS or bit 3 set,
none but a submit's has a SECT field other than 0, and none but 0xC0 and a submit's sets the
power-enable bit 7 (R160). -/
def Obligations.BusTrafficIsTheSpecs : Prop :=
  ∀ (s : State) (r : Request), Inv s → s.out = some r → r.port = s.lport ∧
    ((r.dir = .wr ∧ r.len = 1 ∧ r.addr = s.params.addrPwd ∧
        (r.wdata = [s.params.pwdUnlock] ∨ r.wdata = [0x00#8])) ∨
      (r.dir = .wr ∧ r.len = 1 ∧ r.addr = s.params.addrCtrl0 ∧
        r.wdata ∈ [[0x00#8], [0xC0#8], [0xE0#8], [0xE1#8], [0xE2#8], [0xE3#8], [0xE4#8]]) ∨
      (r.dir = .wr ∧ r.len = 1 ∧ r.addr = s.params.addrCtrl1 ∧
        (r.wdata ∈ [[0x00#8], [0x01#8], [0x05#8], [0x06#8], [0x07#8]] ∨
          ∃ m : BitVec 5, r.wdata = [(m.setWidth 8 <<< 3) ||| 0x02#8])) ∨
      (r.dir = .wr ∧ r.len = 2 ∧ r.addr = s.params.addrCtrl0 ∧
        r.wdata = [s.params.exitCtrl0, 0x00#8]) ∨
      (r.dir = .wr ∧ r.len = 8 ∧ r.addr = s.params.addrRwbuf ∧
        r.wdata = [s.sb.b0, s.sb.b1, s.sb.b2, s.sb.b3, s.sb.b4, s.sb.b5, s.sb.b6, s.sb.b7]) ∨
      (r.dir = .rd ∧ r.len = 1 ∧ r.addr = s.params.addrCtrl0 ∧ r.wdata = []) ∨
      (r.dir = .rd ∧ r.len = 8 ∧ r.addr = s.params.addrRwbuf ∧ r.wdata = [])) ∧
    (s.params.Valid → r.dir = .wr → r.addr = s.params.addrCtrl0 →
      ∀ v, r.wdata.head? = some v →
        v &&& 0x18#8 = 0#8 ∧ (v &&& 0x07#8 = 0#8 ∨ v.getLsbD 5 = true) ∧
          (v.getLsbD 7 = true → v = 0xC0#8 ∨ v.getLsbD 5 = true))

/-- R23, R27, R31, R32, R34, R119: while a command keeps running, LCMD, LPORT, SCRIPT and RESULT are
held, SP does not decrease, and SB changes only where an R8SB is answered. -/
def Obligations.RunningCommandIsHeld : Prop :=
  ∀ (s t : State), s.phase ≠ .idle → step s = .next t → t.phase ≠ .idle →
    t.lcmd = s.lcmd ∧ t.lport = s.lport ∧ t.script = s.script ∧ t.result = s.result ∧
      s.sp ≤ t.sp ∧ t.pollLimit = s.pollLimit ∧
      (t.sb = s.sb ∨ s.phase = .wait ∧ ∃ a, s.script[s.sp]? = some (.r8sb a))

/-- R64, R48: a step adds at most one transaction to the trace and removes none. It leaves the
controller of every port but LPORT as it was: no transaction goes there (R50, R158), and that an
opcode in progress there stands still is the model's choice (log 35). -/
def Obligations.StepMakesOneTransactionAtOnePort : Prop :=
  ∀ (s t : State), step s = .next t →
    (t.trace = s.trace ∨ ∃ e, t.trace = s.trace ++ [e]) ∧
      ∀ q, q ≠ s.lport → portGet t.ctrls q = portGet s.ctrls q

/-- R148: no step clears a recorded model fault; and no step changes the parameters (R47; log 4). -/
def Obligations.RecordedFaultsStay : Prop :=
  ∀ (s t : State), step s = .next t →
    t.params = s.params ∧
    (s.recorded.portUnwritten = true → t.recorded.portUnwritten = true) ∧
    (s.recorded.sbUnwritten = true → t.recorded.sbUnwritten = true) ∧
    (s.recorded.sbReadUnwritten = true → t.recorded.sbReadUnwritten = true) ∧
    (s.recorded.sbReadBusy = true → t.recorded.sbReadBusy = true)

/-! ### The host side -/

/-- R25, R26: STATUS is BUSY in bit 0, the code of RESULT in bits 3:1, zero in bits 7:4. -/
def Obligations.StatusBits : Prop :=
  ∀ (s : State),
    ((status s).getLsbD 0 = true ↔ s.phase ≠ .idle) ∧
    (status s).extractLsb' 4 4 = 0#4 ∧
    (status s).extractLsb' 1 3 = match s.result with
      | .ok => 0#3
      | .transportError => 1#3
      | .argError => 2#3
      | .illegalCommand => 3#3
      | .timeoutError => 4#3

/-- R22, R23, R25, R28, R29, R51: the host's access to the registers. CMD reads 0x00; PORT may be
written at any time, the running command keeping its port; POLL_LIMIT is written while idle and
ignored while busy; a write to a read-only register is ignored. The model's choices: PORT and
POLL_LIMIT take a written value modulo 2 to the register's width (log 19), a write of POLLCNT is
ignored (log 20), POLL_LIMIT can be read while busy (log 30). An access at an address is the access
to what HOST_MAP names there, and is refused where it names nothing (log 24). -/
def Obligations.HostRegisterAccess : Prop :=
  ∀ (s : State) (a : HostAction) (rest : List HostAction), s.sched = [] → s.prog = a :: rest →
    (a = .read .cmd → step s = .next { s with prog := rest, hostRead := 0 }) ∧
    (a = .read .status → step s = .next { s with prog := rest, hostRead := (status s).toNat }) ∧
    (a = .read .pollcnt → step s = .next { s with prog := rest, hostRead := s.pollcnt }) ∧
    (a = .read .pollLimit → step s = .next { s with prog := rest, hostRead := s.pollLimit }) ∧
    (a = .read .port → step s = .next { s with
      prog := rest, hostRead := s.port
      recorded :=
        if s.portWritten then s.recorded else { s.recorded with portUnwritten := true } }) ∧
    (∀ v, a = .port v → step s = .next { s with
      prog := rest, port := v % 2 ^ s.params.portW, portWritten := true }) ∧
    (∀ v, a = .limit v → s.phase = .idle →
      step s = .next { s with prog := rest, pollLimit := v % 2 ^ s.params.pollcntW }) ∧
    (∀ v, a = .limit v → s.phase ≠ .idle → step s = .next { s with prog := rest }) ∧
    (∀ v, a = .writeReadOnly v → step s = .next { s with prog := rest }) ∧
    (∀ k v x, a = .writeAt k v → hostPlaceAt s.params.hostMap k = some x →
      (x = .reg .cmd → s.phase = .idle) →
      step s = step { s with prog := (match x with
        | .reg .cmd => .cmd (BitVec.ofNat 8 v)
        | .reg .port => .port v
        | .reg .status => .writeReadOnly v
        | .reg .pollcnt => .writeReadOnly v
        | .reg .pollLimit => .limit v
        | .sb j => .writeSb j (BitVec.ofNat 8 v)) :: rest }) ∧
    (∀ k x, a = .readAt k → hostPlaceAt s.params.hostMap k = some x →
      step s = step { s with prog := (match x with
        | .reg r => .read r
        | .sb j => .readSb j) :: rest }) ∧
    (∀ k v, a = .writeAt k v ∨ a = .readAt k → hostPlaceAt s.params.hostMap k = none →
      step s = .refused .hostAddressUnmapped)

/-- R24, R125, R165: the host's 8-byte access to SB. While idle LDSB and STSB move all eight bytes,
STSB into the host's storage or into READ's staging area; while the engine is busy a write is
"refused in the model (no step)" (log 8), and a read of unspecified bytes is a recorded model
fault. -/
def Obligations.HostSectorBufferAccess : Prop :=
  ∀ (s : State) (rest : List HostAction), s.sched = [] →
    (∀ x, s.prog = .ldsb x :: rest → s.phase = .idle →
      step s = .next { s with prog := rest, sb := x, sbWritten := 0xFF#8 }) ∧
    (∀ x, s.prog = .ldsb x :: rest → s.phase ≠ .idle → step s = .refused .sbWriteBusy) ∧
    (∀ d, s.prog = .stsb d :: rest → s.phase = .idle → Memory.wf s.hostMem = true →
      ∃ t, step s = .next t ∧ t.sb = s.sb ∧ t.stage = s.stage ∧
        t.recorded = (if s.sbWritten = 0xFF#8 then s.recorded
          else { s.recorded with sbReadUnwritten := true }) ∧
        (∀ b, memRead t.hostMem b =
          if d ≤ b ∧ b < d + 8 then (sectorBytes s.sb).getD (b - d) 0#8
          else memRead s.hostMem b)) ∧
    (∀ d, s.prog = .stsbStage d :: rest → s.phase = .idle → Memory.wf s.stage = true →
      ∃ t, step s = .next t ∧ t.sb = s.sb ∧ t.hostMem = s.hostMem ∧
        t.recorded = (if s.sbWritten = 0xFF#8 then s.recorded
          else { s.recorded with sbReadUnwritten := true }) ∧
        (∀ b, memRead t.stage b =
          if d ≤ b ∧ b < d + 8 then (sectorBytes s.sb).getD (b - d) 0#8
          else memRead s.stage b)) ∧
    (∀ d, s.prog = .stsb d :: rest ∨ s.prog = .stsbStage d :: rest → s.phase ≠ .idle →
      ∃ t, step s = .next t ∧ t.sb = s.sb ∧ t.phase = s.phase ∧
        t.recorded = { s.recorded with sbReadBusy := true })

/-- R24, R148, R165: one byte of SB. While idle a write of SB[k] sets that byte, leaves the other
seven and marks it written; a read returns it, and is a recorded model fault if it is unwritten.
While the engine is busy a write is refused (log 8), and a read returns some value and is a recorded
model fault, SB unchanged. -/
def Obligations.HostSingleByteAccess : Prop :=
  ∀ (s : State) (k : Fin 8) (rest : List HostAction), s.sched = [] →
    (∀ v, s.prog = .writeSb k v :: rest → s.phase = .idle →
      ∃ x w, step s = .next { s with prog := rest, sb := x, sbWritten := w } ∧
        (∀ j, sectorByte x j = if j = k then v else sectorByte s.sb j) ∧
        (∀ j : Fin 8, w.getLsbD j.val = (decide (j = k) || s.sbWritten.getLsbD j.val))) ∧
    (s.prog = .readSb k :: rest → s.phase = .idle →
      ∃ n, step s = .next { s with
        prog := rest, draws := n, hostRead := (sectorByte s.sb k).toNat
        recorded := if s.sbWritten.getLsbD k.val = true then s.recorded
          else { s.recorded with sbReadUnwritten := true } }) ∧
    (∀ v, s.prog = .writeSb k v :: rest → s.phase ≠ .idle → step s = .refused .sbWriteBusy) ∧
    (s.prog = .readSb k :: rest → s.phase ≠ .idle →
      ∃ n v, step s = .next { s with
        prog := rest, draws := n, hostRead := v
        recorded := { s.recorded with sbReadBusy := true } })

/-- R161, R163, R162: the block's reset. Every element of the block takes its stated reset value
(CMD, LCMD, PORT, LPORT and SB are unwritten; their values are log 5's, the model's choice); an
idle block's controllers are unchanged, and in mid-command those of every port but LPORT (that an
opcode in progress there stands still is the model's choice, log 35); an
outstanding transaction is dropped with no response, and there is none to drop in PHASE = ISSUE. -/
def Obligations.BlockReset : Prop :=
  ∀ (s : State) (rest : List HostAction), s.sched = [] → s.prog = .reset :: rest →
    ∃ t, step s = .next t ∧ t.phase = .idle ∧ status t = 0x00#8 ∧ t.pollcnt = 0 ∧
      t.pollLimit = 0 ∧ t.sp = 0 ∧ t.plc = 0 ∧ t.out = none ∧ t.portWritten = false ∧
      t.sbWritten = 0#8 ∧ t.params = s.params ∧ t.hostMem = s.hostMem ∧ t.stage = s.stage ∧
      t.prog = rest ∧ (∀ q, q ≠ s.lport → portGet t.ctrls q = portGet s.ctrls q) ∧
      (s.phase = .issue → t.trace = s.trace) ∧
      (s.phase = .idle → t.ctrls = s.ctrls ∧ t.trace = s.trace) ∧
      (∀ r, s.phase = .wait → s.out = some r → t.trace = s.trace ++ [⟨r, none⟩])

/-- R161: the machine right after reset is idle with STATUS 0x00, POLLCNT 0, no cap, SP 0, PLC 0,
OUT empty, PORT and SB unwritten, and "able to accept a command": a CMD write is accepted in the next
step, and each of the 44 legal words starts its script. -/
def Obligations.ResetState : Prop :=
  status State.reset = 0x00#8 ∧ State.reset.phase = .idle ∧ State.reset.pollcnt = 0 ∧
    State.reset.pollLimit = 0 ∧ State.reset.sp = 0 ∧ State.reset.plc = 0 ∧
    State.reset.out = none ∧ State.reset.portWritten = false ∧ State.reset.sbWritten = 0#8 ∧
    State.reset.trace = [] ∧ State.reset.script = [] ∧ State.reset.params.Valid ∧
    ∀ c : Byte, ∃ t, step { State.reset with prog := [.cmd c] } = .next t ∧ t.lcmd = c ∧
      t.cmd = c ∧ ((decodeCmd c).legal = true → t.phase = .issue ∧ t.sp = 0)

/-- R88, R127: CHECK goes on if RESULT is OK; else the program stops with the RESULT code, and with
cleanup issues exactly one ExitTestMode before it returns that first code. -/
def Obligations.CheckStopsTheProgram : Prop :=
  ∀ (s : State) (cleanup : Bool) (rest : List HostAction), s.sched = [] →
    s.prog = .check cleanup :: rest →
    (s.result = .ok → step s = .next { s with prog := rest }) ∧
    (s.result ≠ .ok → cleanup = false →
      step s = .next { s with prog := [], hostResult := some (.failed s.result) }) ∧
    (s.result ≠ .ok → cleanup = true →
      step s = .next { s with prog := [.cmd 0x03#8, .wait, .ret (.failed s.result)] })

/-- R124, R125, R88: FLASH and READ (with room for 40 bytes) as host programs, action by action. -/
def Obligations.SessionPrograms : Prop :=
  (∀ (p : Params) (img : List Byte), flashProgram p img =
    [ .cmd 0xF9#8, .wait, .check p.cleanupOnError
    , .ldsb (imageSector img 0), .cmd 0x05#8, .wait, .check p.cleanupOnError
    , .ldsb (imageSector img 1), .cmd 0x0D#8, .wait, .check p.cleanupOnError
    , .ldsb (imageSector img 2), .cmd 0x15#8, .wait, .check p.cleanupOnError
    , .ldsb (imageSector img 3), .cmd 0x1D#8, .wait, .check p.cleanupOnError
    , .ldsb (imageSector img 4), .cmd 0x25#8, .wait, .check p.cleanupOnError
    , .cmd 0x03#8, .wait, .check p.cleanupOnError, .ret .ok ]) ∧
  (∀ (p : Params) (dst cap : Nat), 40 ≤ cap → readProgram p dst cap =
    [ .cmd 0x02#8, .wait, .check p.cleanupOnError
    , .cmd 0x04#8, .wait, .check p.cleanupOnError, .stsbStage 0
    , .cmd 0x0C#8, .wait, .check p.cleanupOnError, .stsbStage 8
    , .cmd 0x14#8, .wait, .check p.cleanupOnError, .stsbStage 16
    , .cmd 0x1C#8, .wait, .check p.cleanupOnError, .stsbStage 24
    , .cmd 0x24#8, .wait, .check p.cleanupOnError, .stsbStage 32
    , .cmd 0x03#8, .wait, .check p.cleanupOnError, .copyStage dst, .ret .ok ])

/-- R125, R128: READ with a capacity below 40 ends with CapacityError, no command issued and no
transaction. -/
def Obligations.ReadCapacityGuard : Prop :=
  ∀ (s : State) (dst cap : Nat), cap < 40 → s.sched = [] →
    s.prog = readProgram s.params dst cap →
    step s = .next { s with prog := [], hostResult := some .capacityError }

/-- R125: "a failed read never partially overwrites caller memory". Whatever the environment, the
order of moves and the state READ starts in, at every point of its run the host's storage is as it
was, unless only the return of OK is left of the program or it has returned OK. -/
def Obligations.ReadKeepsTheDestination : Prop :=
  ∀ (n : Nat) (s t : State) (dst cap : Nat), s.prog = readProgram s.params dst cap →
    Reaches n s t →
    t.hostMem = s.hostMem ∨ t.prog = [.ret .ok] ∨ t.prog = [] ∧ t.hostResult = some .ok

/-- R121, R122, R123: the image codec's two laws, and the place of each byte. -/
def Obligations.ImageCodecLaws : Prop :=
  (∀ img : List Byte, img.length = 40 →
    assembleImage (imageSector img 0) (imageSector img 1) (imageSector img 2) (imageSector img 3)
      (imageSector img 4) = img) ∧
  (∀ s0 s1 s2 s3 s4 : Sector,
    imageSector (assembleImage s0 s1 s2 s3 s4) 0 = s0 ∧
    imageSector (assembleImage s0 s1 s2 s3 s4) 1 = s1 ∧
    imageSector (assembleImage s0 s1 s2 s3 s4) 2 = s2 ∧
    imageSector (assembleImage s0 s1 s2 s3 s4) 3 = s3 ∧
    imageSector (assembleImage s0 s1 s2 s3 s4) 4 = s4) ∧
  (∀ s0 s1 s2 s3 s4 : Sector, assembleImage s0 s1 s2 s3 s4 =
    sectorBytes s0 ++ sectorBytes s1 ++ sectorBytes s2 ++ sectorBytes s3 ++ sectorBytes s4 ∧
      (assembleImage s0 s1 s2 s3 s4).length = 40) ∧
  (∀ (img : List Byte) (i k : Nat) (hk : k < 8) (hi : 8 * i + k < img.length),
    sectorByte (imageSector img i) ⟨k, hk⟩ = img[8 * i + k])

/-! ### The reference controller -/

/-- R131, R44, R54: the password gate, for every controller, so also after a failed write. A write
of the password register always sets it; a write of CTRL_0 or CTRL_1, or of both as ExitTestMode writes
them, while the register does not hold PWD_UNLOCK is ignored (also while an opcode is in progress:
log 33); a write of RWBUF always sets the shared data register. -/
def Obligations.PasswordGate : Prop :=
  ∀ (p : Params) (n port : Nat) (v w : Byte) (x : Sector) (c : Controller), p.Valid →
    refWrite p n ⟨port, .wr, p.addrPwd, 1, [v]⟩ c = { c with pwd := v } ∧
    refWrite p n ⟨port, .wr, p.addrRwbuf, 8, sectorBytes x⟩ c = { c with rw := x } ∧
    (c.pwd ≠ p.pwdUnlock →
      refWrite p n ⟨port, .wr, p.addrCtrl0, 1, [v]⟩ c = c ∧
      refWrite p n ⟨port, .wr, p.addrCtrl1, 1, [v]⟩ c = c ∧
      refWrite p n ⟨port, .wr, p.addrCtrl0, 2, [v, w]⟩ c = c)

/-- R132, R133, R54: an accepted CTRL_0 write with bit 5 set starts the opcode in C1[2:0], after
which CTRL_0 reads with bit 5 set; a CTRL_1 write sets C1; the two bytes of a 2-byte write at CTRL_0
go to CTRL_0 and CTRL_1 in order. A CTRL_0 value with bit 4 or bit 3 set at the unlocked controller
is refused by the machine (93 U10: "refuse any value other than 0"; log 14). -/
def Obligations.SubmitStartsTheOpcode : Prop :=
  (∀ (p : Params) (n port : Nat) (v w : Byte) (c : Controller), p.Valid →
    c.pwd = p.pwdUnlock → c.busyop = none → v &&& 0x18#8 = 0#8 →
    (v.getLsbD 5 = true →
      let c' := refWrite p n ⟨port, .wr, p.addrCtrl0, 1, [v]⟩ c
      c' = { c with c0 := v, busyop := some (c.c1.extractLsb' 0 3) } ∧
        (ctrl0Read c').getLsbD 5 = true) ∧
    (v.getLsbD 5 = false →
      refWrite p n ⟨port, .wr, p.addrCtrl0, 1, [v]⟩ c = { c with c0 := v } ∧
        ctrl0Read { c with c0 := v } = v ∧
        refWrite p n ⟨port, .wr, p.addrCtrl0, 2, [v, w]⟩ c = { c with c0 := v, c1 := w }) ∧
    refWrite p n ⟨port, .wr, p.addrCtrl1, 1, [w]⟩ c = { c with c1 := w }) ∧
  (∀ (s u : State) (op : MicroOp) (d : Sector) (v : Byte) (vs : List Byte) (len : Nat),
    EnvMoves s u → opcodeInProgress u = none → u.envMode = .reference → u.phase = .wait →
    let req : Request := ⟨u.lport, .wr, u.params.addrCtrl0, len, v :: vs⟩
    u.script[u.sp]? = some op → u.out = some req → envAnswer u req = .ok d →
    (controller u).pwd = u.params.pwdUnlock → v &&& 0x18#8 ≠ 0#8 →
    step s = .refused .ctrl0BitsUnspecified)

/-- R135, R132: OP_READ completes: RW holds NVM[sel] (sel 5 to 7, which the engine never issues:
some eight bytes), no opcode is in progress, and the controller is otherwise unchanged. -/
def Obligations.OpReadLoadsTheSector : Prop :=
  ∀ (ser : BitVec 5) (s : State),
    ∃ t x, exec (.opRead ser) s = .next t ∧
      (sectorSelect (controller s).c0 < 5 →
        x = nvmRead (controller s) (sectorSelect (controller s).c0)) ∧
      controller t = { controller s with rw := x, busyop := none }

/-- R136, R137, R142, R132: OP_WRITE_PL copies RW to PL; OP_WRITE_SER sets SER and clears SOFT;
OP_SOFT_PROG sets SOFT; each leaves no opcode in progress and the controller otherwise unchanged,
the NVM with it. -/
def Obligations.RegisterOpcodes : Prop :=
  ∀ (ser : BitVec 5) (s : State),
    (∃ t, exec (.opWritePl ser) s = .next t ∧
      controller t = { controller s with pl := (controller s).rw, busyop := none }) ∧
    (∃ t, exec (.opWriteSer ser) s = .next t ∧
      controller t = { controller s with ser := ser, soft := false, busyop := none }) ∧
    (∃ t, exec (.opSoftProg ser) s = .next t ∧
      controller t = { controller s with soft := true, busyop := none })

/-- R140, R132: OP_ERASE_SECTORS completes. With SOFT, every byte of every sector of SER reads
ERASED_BYTE and those sectors' ERASED flags are set; without SOFT no NVM byte and no flag changes;
every byte outside SER's sectors reads as before; no other register but BUSYOP changes. -/
def Obligations.OpEraseSectors : Prop :=
  ∀ (ser : BitVec 5) (s : State), MemoryKept s →
    ∃ t, exec (.opEraseSectors ser) s = .next t ∧
      (∀ a, memRead (controller t).nvm a =
        if (controller s).soft = true ∧ a < 40 ∧ (controller s).ser.getLsbD (a / 8) = true then
          s.params.erasedByte
        else memRead (controller s).nvm a) ∧
      controller t = { controller s with
        busyop := none, nvm := (controller t).nvm
        erased := if (controller s).soft then (controller s).erased ||| (controller s).ser
          else (controller s).erased }

/-- R141, R132: OP_PROG_SECTOR completes, whatever the sector select sel. For sel in 0..4: on an
erased sector NVM[sel] = PL and ERASED[sel] is cleared; on another no ERASED flag changes (and
NVM[sel] holds some eight bytes); every byte outside the sector reads as before. No register but
BUSYOP and ERASED changes. (For sel 5 to 7 the NVM holds free values: the model's choice, log 9.) -/
def Obligations.OpProgSector : Prop :=
  ∀ (ser : BitVec 5) (s : State) (sel : Nat), MemoryKept s →
    sel = sectorSelect (controller s).c0 →
    ∃ t, exec (.opProgSector ser) s = .next t ∧
      controller t = { controller s with
        busyop := none, nvm := (controller t).nvm, erased := (controller t).erased } ∧
      (sel < 5 →
        ((controller s).erased.getLsbD sel = true →
          nvmRead (controller t) sel = (controller s).pl ∧
            (controller t).erased.getLsbD sel = false ∧
            ∀ i, i ≠ sel →
              (controller t).erased.getLsbD i = (controller s).erased.getLsbD i) ∧
        ((controller s).erased.getLsbD sel = false →
          (controller t).erased = (controller s).erased) ∧
        (∀ a, ¬(8 * sel ≤ a ∧ a < 8 * sel + 8) →
          memRead (controller t).nvm a = memRead (controller s).nvm a))

/-- R132: the frame of the eight opcodes, in every state. The block's registers, the host, the
trace, every byte of the host's storage and the controllers of all other ports are unchanged (an
opcode in progress there stands still: the model's choice, log 35). -/
def Obligations.OpcodeFrame : Prop :=
  ∀ (b : Byte) (s t : State), exec (decodeCtrl1 b) s = .next t →
    t = { s with ctrls := t.ctrls, draws := t.draws } ∧
      (∀ a, memRead t.hostMem a = memRead s.hostMem a) ∧
      ∀ q, q ≠ s.lport → portGet t.ctrls q = portGet s.ctrls q

/-- R138, R139: read-PL and read-SER: "Reference effect: unspecified; the reference model refuses
it". -/
def Obligations.UnspecifiedOpcodesRefused : Prop :=
  ∀ (ser : BitVec 5) (s : State),
    exec (.opReadPl ser) s = .refused .readPlUnspecified ∧
      exec (.opReadSer ser) s = .refused .readSerUnspecified
end

