-- ==== Sys2Proof/Laws/Memory.lean ====
section
/-! SUPPORT. Memory: a read after a write, and the canonical form, which every memory operation
keeps; the same for the sectors of an NVM and for the list of controllers. -/

namespace Sys2Proof.Machine

/-! ### Bytes -/

theorem memRead_below {m : Memory} {lo a : Nat} (h : memWfFrom lo m = true) (ha : a < lo) :
    memRead m a = Config.unlistedByte := by
  induction m generalizing lo with
  | nil => rfl
  | cons e m ih =>
    obtain ⟨k, v⟩ := e
    simp only [memWfFrom, Bool.and_eq_true, decide_eq_true_eq] at h
    simp only [memRead]
    rw [if_neg (by omega)]
    exact ih h.2 (by omega)

theorem memWfFrom_mono {m : Memory} {lo lo' : Nat} (h : memWfFrom lo m = true) (hl : lo' ≤ lo) :
    memWfFrom lo' m = true := by
  cases m with
  | nil => rfl
  | cons e m =>
    obtain ⟨k, v⟩ := e
    simp only [memWfFrom, Bool.and_eq_true, decide_eq_true_eq] at h ⊢
    exact ⟨⟨by omega, h.1.2⟩, h.2⟩

theorem memWrite_wfFrom {m : Memory} {lo a : Nat} (v : Byte) (h : memWfFrom lo m = true)
    (ha : lo ≤ a) : memWfFrom lo (memWrite m a v) = true := by
  induction m generalizing lo with
  | nil =>
    unfold memWrite
    split
    · rfl
    · simp_all [memWfFrom]
  | cons e m ih =>
    obtain ⟨k, w⟩ := e
    simp only [memWfFrom, Bool.and_eq_true, decide_eq_true_eq, bne_iff_ne, ne_eq] at h
    unfold memWrite
    split
    · split
      · simp_all [memWfFrom]
      · simp_all [memWfFrom]
    · split
      · split
        · exact memWfFrom_mono h.2 (by omega)
        · simp_all [memWfFrom]
      · simp only [memWfFrom, Bool.and_eq_true, decide_eq_true_eq, bne_iff_ne, ne_eq]
        exact ⟨h.1, ih h.2 (by omega)⟩

/-- A write keeps the canonical form. -/
theorem memWrite_wf {m : Memory} (a : Nat) (v : Byte) (h : Memory.wf m = true) :
    Memory.wf (memWrite m a v) = true := memWrite_wfFrom v h (Nat.zero_le _)

theorem memRead_memWrite_from {m : Memory} {lo : Nat} (a b : Nat) (v : Byte)
    (h : memWfFrom lo m = true) :
    memRead (memWrite m a v) b = if a = b then v else memRead m b := by
  induction m generalizing lo with
  | nil =>
    unfold memWrite
    split <;> simp_all [memRead]
  | cons e m ih =>
    obtain ⟨k, w⟩ := e
    simp only [memWfFrom, Bool.and_eq_true, decide_eq_true_eq, bne_iff_ne, ne_eq] at h
    have below : ∀ c, c < k + 1 → memRead m c = Config.unlistedByte := fun c hc =>
      memRead_below h.2 hc
    unfold memWrite
    split
    · next hlt =>
      split
      · next hv =>
        by_cases hab : a = b
        · subst hab; simp only [memRead, if_true]
          rw [if_neg (by omega), below _ (by omega), hv]
        · simp [hab]
      · simp [memRead]
    · next hge =>
      split
      · next hak =>
        subst hak
        split
        · next hv =>
          by_cases hab : a = b
          · subst hab; simp only [if_true]; rw [below _ (by omega), hv]
          · simp [hab, memRead]
        · by_cases hab : a = b <;> simp [hab, memRead]
      · next hne =>
        by_cases hkb : k = b
        · subst hkb; simp [memRead, hne]
        · simp only [memRead, hkb, if_false]; exact ih h.2

/-- A byte read after a write: the byte written at its address, every other byte as before. -/
theorem memRead_memWrite {m : Memory} (a b : Nat) (v : Byte) (h : Memory.wf m = true) :
    memRead (memWrite m a v) b = if a = b then v else memRead m b :=
  memRead_memWrite_from a b v h

/-! ### Runs of bytes -/

/-- Writing a run of bytes keeps the canonical form. -/
theorem memWriteBytes_wf {m : Memory} (a : Nat) (vs : List Byte) (h : Memory.wf m = true) :
    Memory.wf (memWriteBytes m a vs) = true := by
  induction vs generalizing m a with
  | nil => exact h
  | cons v vs ih => exact ih (a + 1) (memWrite_wf a v h)

theorem memRead_memWriteBytes {m : Memory} (a b : Nat) (vs : List Byte) (h : Memory.wf m = true) :
    memRead (memWriteBytes m a vs) b =
      if a ≤ b ∧ b < a + vs.length then vs.getD (b - a) 0#8 else memRead m b := by
  induction vs generalizing m a with
  | nil =>
    have : ¬(a ≤ b ∧ b < a + ([] : List Byte).length) := by simp
    simp only [this, if_false, memWriteBytes]
  | cons v vs ih =>
    simp only [memWriteBytes, ih (a + 1) (memWrite_wf a v h), memRead_memWrite a b v h,
      List.length_cons]
    by_cases hab : a = b
    · subst hab
      rw [if_neg (by omega), if_pos rfl, if_pos (by omega)]
      simp
    · by_cases hr : a + 1 ≤ b ∧ b < a + 1 + vs.length
      · rw [if_pos hr, if_pos (by omega)]
        obtain ⟨d, rfl⟩ : ∃ d, b = a + 1 + d := ⟨b - (a + 1), by omega⟩
        have e1 : a + 1 + d - (a + 1) = d := by omega
        have e2 : a + 1 + d - a = d + 1 := by omega
        rw [e1, e2]; rfl
      · rw [if_neg hr, if_neg hab, if_neg (by omega)]

/-! ### Sectors -/

/-- Bytes read upward, as a list of single reads. -/
theorem memReadBytes_eq (m : Memory) (a n : Nat) :
    memReadBytes m a n = (List.range n).map fun i => memRead m (a + i) := by
  induction n generalizing a with
  | zero => rfl
  | succ n ih =>
    rw [memReadBytes, ih, List.range_succ_eq_map]
    simp only [List.map_cons, Nat.add_zero, List.map_map, List.cons.injEq, true_and]
    refine List.map_congr_left fun i _ => ?_
    simp only [Function.comp_apply]
    congr 1
    omega

/-- Bytes read back where they were written. -/
theorem memReadBytes_same {m : Memory} (a : Nat) (vs : List Byte) (h : Memory.wf m = true) :
    memReadBytes (memWriteBytes m a vs) a vs.length = vs := by
  rw [memReadBytes_eq]
  refine List.ext_getElem (by simp) fun i h1 h2 => ?_
  simp only [List.getElem_map, List.getElem_range]
  rw [memRead_memWriteBytes _ _ _ h]
  simp [h2]

/-- Writing a sector keeps the canonical form. -/
theorem memWriteSector_wf {m : Memory} (a : Nat) (x : Sector) (h : Memory.wf m = true) :
    Memory.wf (memWriteSector m a x) = true := memWriteBytes_wf a _ h

/-- Every byte after a sector is written. -/
theorem memRead_memWriteSector {m : Memory} (a b : Nat) (x : Sector) (h : Memory.wf m = true) :
    memRead (memWriteSector m a x) b =
      if a ≤ b ∧ b < a + 8 then (sectorBytes x).getD (b - a) 0#8 else memRead m b :=
  memRead_memWriteBytes a b _ h

/-- A sector read back where it was written. -/
theorem memReadSector_same {m : Memory} (a : Nat) (x : Sector) (h : Memory.wf m = true) :
    memReadSector (memWriteSector m a x) a = x := by
  obtain ⟨x0, x1, x2, x3, x4, x5, x6, x7⟩ := x
  simp [memReadSector, sectorOf, memRead_memWriteSector _ _ _ h, sectorBytes]

/-- A sector read where another was written. -/
theorem memReadSector_other {m : Memory} (a b : Nat) (x : Sector) (h : Memory.wf m = true)
    (hd : a + 8 ≤ b ∨ b + 8 ≤ a) :
    memReadSector (memWriteSector m a x) b = memReadSector m b := by
  have key : ∀ k, k < 8 → memRead (memWriteSector m a x) (b + k) = memRead m (b + k) := by
    intro k hk
    rw [memRead_memWriteSector _ _ _ h, if_neg (by omega)]
  simp only [memReadSector, sectorOf]
  rw [key 0 (by omega), key 1 (by omega), key 2 (by omega), key 3 (by omega), key 4 (by omega),
    key 5 (by omega), key 6 (by omega), key 7 (by omega)]

/-! ### The NVM -/

theorem memBelow_memWrite {m : Memory} {n : Nat} (a : Nat) (v : Byte) (ha : a < n)
    (h : memBelow n m = true) : memBelow n (memWrite m a v) = true := by
  induction m with
  | nil => unfold memWrite; split <;> simp [memBelow, ha]
  | cons e m ih =>
    obtain ⟨k, w⟩ := e
    simp only [memBelow, Bool.and_eq_true, decide_eq_true_eq] at h
    have hw := ih h.2
    unfold memWrite
    split
    · split <;> simp [memBelow, ha, h]
    · split
      · split <;> simp [memBelow, ha, h]
      · simp [memBelow, hw, h]

theorem memBelow_memWriteBytes {m : Memory} {n : Nat} (a : Nat) (vs : List Byte)
    (ha : a + vs.length ≤ n) (h : memBelow n m = true) :
    memBelow n (memWriteBytes m a vs) = true := by
  induction vs generalizing m a with
  | nil => exact h
  | cons v vs ih =>
    simp only [List.length_cons] at ha
    exact ih (a + 1) (by omega) (memBelow_memWrite a v (by omega) h)

/-- Writing one of the five sectors keeps an NVM well formed. -/
theorem nvmWf_writeSector {m : Memory} (i : Nat) (x : Sector) (hi : i < 5) (h : nvmWf m = true) :
    nvmWf (memWriteSector m (sectorBase i) x) = true := by
  simp only [nvmWf, Bool.and_eq_true] at h ⊢
  refine ⟨memWriteSector_wf _ _ h.1, memBelow_memWriteBytes _ _ ?_ h.2⟩
  simp only [sectorBase, sectorBytes, List.length_cons, List.length_nil]
  omega

theorem nvmWf_nil : nvmWf [] = true := rfl

theorem nvmWf_freeNvm (n : Nat) : nvmWf (freeNvm n) = true := by
  unfold freeNvm
  exact nvmWf_writeSector 4 _ (by omega) (nvmWf_writeSector 3 _ (by omega)
    (nvmWf_writeSector 2 _ (by omega) (nvmWf_writeSector 1 _ (by omega)
      (nvmWf_writeSector 0 _ (by omega) nvmWf_nil))))

theorem nvmRead_nvmWrite_same {c : Controller} (i : Nat) (x : Sector)
    (h : Memory.wf c.nvm = true) : nvmRead (nvmWrite c i x) i = x := memReadSector_same _ _ h

theorem nvmRead_nvmWrite_other {c : Controller} (i j : Nat) (x : Sector)
    (h : Memory.wf c.nvm = true) (hij : i ≠ j) :
    nvmRead (nvmWrite c i x) j = nvmRead c j := by
  refine memReadSector_other _ _ _ h ?_
  simp only [sectorBase]
  omega

theorem nvmWf_nvmWrite {c : Controller} (i : Nat) (x : Sector) (hi : i < 5)
    (h : nvmWf c.nvm = true) : nvmWf (nvmWrite c i x).nvm = true := nvmWf_writeSector i x hi h

theorem nvmWf_nvmWriteIf {c : Controller} (mask : BitVec 5) (i : Nat) (x : Sector) (hi : i < 5)
    (h : nvmWf c.nvm = true) : nvmWf (nvmWriteIf mask i x c).nvm = true := by
  unfold nvmWriteIf
  split
  · exact nvmWf_nvmWrite i x hi h
  · exact h

/-! ### Controllers by port -/

/-- A controller read after one is replaced. -/
theorem portGet_portSet (t : List (Nat × Controller)) (p q : Nat) (c : Controller) :
    portGet (portSet t p c) q = if p = q then c else portGet t q := by
  induction t with
  | nil => simp [portSet, portGet]
  | cons e t ih =>
    obtain ⟨k, d⟩ := e
    unfold portSet
    split
    · simp [portGet]
    · split
      · next hpk => subst hpk; by_cases hpq : p = q <;> simp [portGet, hpq]
      · next hne =>
        by_cases hkq : k = q
        · subst hkq; simp [portGet, hne]
        · simpa only [portGet, hkq, if_false] using ih

theorem portsWf_portSet {t : List (Nat × Controller)} {lo p : Nat} {c : Controller}
    (hp : lo ≤ p) (hc : nvmWf c.nvm = true) (h : portsWf lo t = true) :
    portsWf lo (portSet t p c) = true := by
  induction t generalizing lo with
  | nil => simp [portSet, portsWf, hp, hc]
  | cons e t ih =>
    obtain ⟨k, d⟩ := e
    simp only [portsWf, Bool.and_eq_true, decide_eq_true_eq] at h
    unfold portSet
    split
    · simp only [portsWf, Bool.and_eq_true, decide_eq_true_eq]
      exact ⟨⟨hp, hc⟩, ⟨by omega, h.1.2⟩, h.2⟩
    · split
      · next hpk => subst hpk; simp only [portsWf, Bool.and_eq_true, decide_eq_true_eq]
                    exact ⟨⟨hp, hc⟩, h.2⟩
      · simp only [portsWf, Bool.and_eq_true, decide_eq_true_eq]
        exact ⟨h.1, ih (by omega) h.2⟩

theorem nvmWf_portGet {t : List (Nat × Controller)} {lo : Nat} (p : Nat)
    (h : portsWf lo t = true) : nvmWf (portGet t p).nvm = true := by
  induction t generalizing lo with
  | nil => rfl
  | cons e t ih =>
    obtain ⟨k, d⟩ := e
    simp only [portsWf, Bool.and_eq_true, decide_eq_true_eq] at h
    unfold portGet
    split
    · exact h.1.2
    · exact ih h.2

/-- The controller of LPORT after it is replaced. -/
@[simp] theorem controller_setController (c : Controller) (s : State) :
    controller (setController c s) = c := by
  simp [controller, setController, portGet_portSet]

/-- The controllers of the other ports after it is replaced (R50). -/
theorem portGet_setController {s : State} (c : Controller) {q : Nat} (h : q ≠ s.lport) :
    portGet (setController c s).ctrls q = portGet s.ctrls q := by
  simp [setController, portGet_portSet, Ne.symm h]

/-- The list of controllers keeps its form when a controller with a well-formed NVM replaces that
of LPORT. -/
theorem setController_kept {s : State} {c : Controller} (hc : nvmWf c.nvm = true)
    (h : portsWf 0 s.ctrls = true) : portsWf 0 (setController c s).ctrls = true :=
  portsWf_portSet (Nat.zero_le _) hc h

end Sys2Proof.Machine
end

