-- ==== Sys2Proof/Laws/State.lean ====
section
/-! SUPPORT. What each named update of the state does to each field, true by definition: a proof
simplifies with these and unfolds no record update. -/

namespace Sys2Proof.Machine

@[simp] theorem latch_params (c : Byte) (s : State) :
    (latch c s).params = s.params := rfl
@[simp] theorem latch_cmd (c : Byte) (s : State) :
    (latch c s).cmd = s.cmd := rfl
@[simp] theorem latch_port (c : Byte) (s : State) :
    (latch c s).port = s.port := rfl
@[simp] theorem latch_portWritten (c : Byte) (s : State) :
    (latch c s).portWritten = s.portWritten := rfl
@[simp] theorem latch_sb (c : Byte) (s : State) :
    (latch c s).sb = s.sb := rfl
@[simp] theorem latch_sbWritten (c : Byte) (s : State) :
    (latch c s).sbWritten = s.sbWritten := rfl
@[simp] theorem latch_result (c : Byte) (s : State) :
    (latch c s).result = s.result := rfl
@[simp] theorem latch_pollcnt (c : Byte) (s : State) :
    (latch c s).pollcnt = 0 := rfl
@[simp] theorem latch_pollLimit (c : Byte) (s : State) :
    (latch c s).pollLimit = s.pollLimit := rfl
@[simp] theorem latch_phase (c : Byte) (s : State) :
    (latch c s).phase = s.phase := rfl
@[simp] theorem latch_script (c : Byte) (s : State) :
    (latch c s).script = s.script := rfl
@[simp] theorem latch_sp (c : Byte) (s : State) :
    (latch c s).sp = s.sp := rfl
@[simp] theorem latch_plc (c : Byte) (s : State) :
    (latch c s).plc = 0 := rfl
@[simp] theorem latch_lcmd (c : Byte) (s : State) :
    (latch c s).lcmd = c := rfl
@[simp] theorem latch_lport (c : Byte) (s : State) :
    (latch c s).lport = s.port := rfl
@[simp] theorem latch_out (c : Byte) (s : State) :
    (latch c s).out = s.out := rfl
@[simp] theorem latch_ctrls (c : Byte) (s : State) :
    (latch c s).ctrls = s.ctrls := rfl
@[simp] theorem latch_prog (c : Byte) (s : State) :
    (latch c s).prog = s.prog := rfl
@[simp] theorem latch_hostMem (c : Byte) (s : State) :
    (latch c s).hostMem = s.hostMem := rfl
@[simp] theorem latch_stage (c : Byte) (s : State) :
    (latch c s).stage = s.stage := rfl
@[simp] theorem latch_hostRead (c : Byte) (s : State) :
    (latch c s).hostRead = s.hostRead := rfl
@[simp] theorem latch_hostResult (c : Byte) (s : State) :
    (latch c s).hostResult = s.hostResult := rfl
@[simp] theorem latch_sched (c : Byte) (s : State) :
    (latch c s).sched = s.sched := rfl
@[simp] theorem latch_envMode (c : Byte) (s : State) :
    (latch c s).envMode = s.envMode := rfl
@[simp] theorem latch_answers (c : Byte) (s : State) :
    (latch c s).answers = s.answers := rfl
@[simp] theorem latch_draws (c : Byte) (s : State) :
    (latch c s).draws = s.draws := rfl
@[simp] theorem latch_trace (c : Byte) (s : State) :
    (latch c s).trace = s.trace := rfl
@[simp] theorem latch_recorded (c : Byte) (s : State) :
    (latch c s).recorded = recordPort s := rfl

@[simp] theorem reject_params (e : ResultCode) (s : State) :
    (reject e s).params = s.params := rfl
@[simp] theorem reject_cmd (e : ResultCode) (s : State) :
    (reject e s).cmd = s.cmd := rfl
@[simp] theorem reject_port (e : ResultCode) (s : State) :
    (reject e s).port = s.port := rfl
@[simp] theorem reject_portWritten (e : ResultCode) (s : State) :
    (reject e s).portWritten = s.portWritten := rfl
@[simp] theorem reject_sb (e : ResultCode) (s : State) :
    (reject e s).sb = s.sb := rfl
@[simp] theorem reject_sbWritten (e : ResultCode) (s : State) :
    (reject e s).sbWritten = s.sbWritten := rfl
@[simp] theorem reject_result (e : ResultCode) (s : State) :
    (reject e s).result = e := rfl
@[simp] theorem reject_pollcnt (e : ResultCode) (s : State) :
    (reject e s).pollcnt = s.pollcnt := rfl
@[simp] theorem reject_pollLimit (e : ResultCode) (s : State) :
    (reject e s).pollLimit = s.pollLimit := rfl
@[simp] theorem reject_phase (e : ResultCode) (s : State) :
    (reject e s).phase = s.phase := rfl
@[simp] theorem reject_script (e : ResultCode) (s : State) :
    (reject e s).script = s.script := rfl
@[simp] theorem reject_sp (e : ResultCode) (s : State) :
    (reject e s).sp = s.sp := rfl
@[simp] theorem reject_plc (e : ResultCode) (s : State) :
    (reject e s).plc = s.plc := rfl
@[simp] theorem reject_lcmd (e : ResultCode) (s : State) :
    (reject e s).lcmd = s.lcmd := rfl
@[simp] theorem reject_lport (e : ResultCode) (s : State) :
    (reject e s).lport = s.lport := rfl
@[simp] theorem reject_out (e : ResultCode) (s : State) :
    (reject e s).out = s.out := rfl
@[simp] theorem reject_ctrls (e : ResultCode) (s : State) :
    (reject e s).ctrls = s.ctrls := rfl
@[simp] theorem reject_prog (e : ResultCode) (s : State) :
    (reject e s).prog = s.prog := rfl
@[simp] theorem reject_hostMem (e : ResultCode) (s : State) :
    (reject e s).hostMem = s.hostMem := rfl
@[simp] theorem reject_stage (e : ResultCode) (s : State) :
    (reject e s).stage = s.stage := rfl
@[simp] theorem reject_hostRead (e : ResultCode) (s : State) :
    (reject e s).hostRead = s.hostRead := rfl
@[simp] theorem reject_hostResult (e : ResultCode) (s : State) :
    (reject e s).hostResult = s.hostResult := rfl
@[simp] theorem reject_sched (e : ResultCode) (s : State) :
    (reject e s).sched = s.sched := rfl
@[simp] theorem reject_envMode (e : ResultCode) (s : State) :
    (reject e s).envMode = s.envMode := rfl
@[simp] theorem reject_answers (e : ResultCode) (s : State) :
    (reject e s).answers = s.answers := rfl
@[simp] theorem reject_draws (e : ResultCode) (s : State) :
    (reject e s).draws = s.draws := rfl
@[simp] theorem reject_trace (e : ResultCode) (s : State) :
    (reject e s).trace = s.trace := rfl
@[simp] theorem reject_recorded (e : ResultCode) (s : State) :
    (reject e s).recorded = s.recorded := rfl

@[simp] theorem start_params (l : List MicroOp) (s : State) :
    (start l s).params = s.params := rfl
@[simp] theorem start_cmd (l : List MicroOp) (s : State) :
    (start l s).cmd = s.cmd := rfl
@[simp] theorem start_port (l : List MicroOp) (s : State) :
    (start l s).port = s.port := rfl
@[simp] theorem start_portWritten (l : List MicroOp) (s : State) :
    (start l s).portWritten = s.portWritten := rfl
@[simp] theorem start_sb (l : List MicroOp) (s : State) :
    (start l s).sb = s.sb := rfl
@[simp] theorem start_sbWritten (l : List MicroOp) (s : State) :
    (start l s).sbWritten = s.sbWritten := rfl
@[simp] theorem start_result (l : List MicroOp) (s : State) :
    (start l s).result = s.result := rfl
@[simp] theorem start_pollcnt (l : List MicroOp) (s : State) :
    (start l s).pollcnt = s.pollcnt := rfl
@[simp] theorem start_pollLimit (l : List MicroOp) (s : State) :
    (start l s).pollLimit = s.pollLimit := rfl
@[simp] theorem start_phase (l : List MicroOp) (s : State) :
    (start l s).phase = .issue := rfl
@[simp] theorem start_script (l : List MicroOp) (s : State) :
    (start l s).script = l := rfl
@[simp] theorem start_sp (l : List MicroOp) (s : State) :
    (start l s).sp = 0 := rfl
@[simp] theorem start_plc (l : List MicroOp) (s : State) :
    (start l s).plc = s.plc := rfl
@[simp] theorem start_lcmd (l : List MicroOp) (s : State) :
    (start l s).lcmd = s.lcmd := rfl
@[simp] theorem start_lport (l : List MicroOp) (s : State) :
    (start l s).lport = s.lport := rfl
@[simp] theorem start_out (l : List MicroOp) (s : State) :
    (start l s).out = s.out := rfl
@[simp] theorem start_ctrls (l : List MicroOp) (s : State) :
    (start l s).ctrls = s.ctrls := rfl
@[simp] theorem start_prog (l : List MicroOp) (s : State) :
    (start l s).prog = s.prog := rfl
@[simp] theorem start_hostMem (l : List MicroOp) (s : State) :
    (start l s).hostMem = s.hostMem := rfl
@[simp] theorem start_stage (l : List MicroOp) (s : State) :
    (start l s).stage = s.stage := rfl
@[simp] theorem start_hostRead (l : List MicroOp) (s : State) :
    (start l s).hostRead = s.hostRead := rfl
@[simp] theorem start_hostResult (l : List MicroOp) (s : State) :
    (start l s).hostResult = s.hostResult := rfl
@[simp] theorem start_sched (l : List MicroOp) (s : State) :
    (start l s).sched = s.sched := rfl
@[simp] theorem start_envMode (l : List MicroOp) (s : State) :
    (start l s).envMode = s.envMode := rfl
@[simp] theorem start_answers (l : List MicroOp) (s : State) :
    (start l s).answers = s.answers := rfl
@[simp] theorem start_draws (l : List MicroOp) (s : State) :
    (start l s).draws = s.draws := rfl
@[simp] theorem start_trace (l : List MicroOp) (s : State) :
    (start l s).trace = s.trace := rfl
@[simp] theorem start_recorded (l : List MicroOp) (s : State) :
    (start l s).recorded = s.recorded := rfl

@[simp] theorem complete_params (s : State) :
    (complete s).params = s.params := rfl
@[simp] theorem complete_cmd (s : State) :
    (complete s).cmd = s.cmd := rfl
@[simp] theorem complete_port (s : State) :
    (complete s).port = s.port := rfl
@[simp] theorem complete_portWritten (s : State) :
    (complete s).portWritten = s.portWritten := rfl
@[simp] theorem complete_sb (s : State) :
    (complete s).sb = s.sb := rfl
@[simp] theorem complete_sbWritten (s : State) :
    (complete s).sbWritten = s.sbWritten := rfl
@[simp] theorem complete_result (s : State) :
    (complete s).result = .ok := rfl
@[simp] theorem complete_pollcnt (s : State) :
    (complete s).pollcnt = s.pollcnt := rfl
@[simp] theorem complete_pollLimit (s : State) :
    (complete s).pollLimit = s.pollLimit := rfl
@[simp] theorem complete_phase (s : State) :
    (complete s).phase = .idle := rfl
@[simp] theorem complete_script (s : State) :
    (complete s).script = s.script := rfl
@[simp] theorem complete_sp (s : State) :
    (complete s).sp = s.sp := rfl
@[simp] theorem complete_plc (s : State) :
    (complete s).plc = s.plc := rfl
@[simp] theorem complete_lcmd (s : State) :
    (complete s).lcmd = s.lcmd := rfl
@[simp] theorem complete_lport (s : State) :
    (complete s).lport = s.lport := rfl
@[simp] theorem complete_out (s : State) :
    (complete s).out = s.out := rfl
@[simp] theorem complete_ctrls (s : State) :
    (complete s).ctrls = s.ctrls := rfl
@[simp] theorem complete_prog (s : State) :
    (complete s).prog = s.prog := rfl
@[simp] theorem complete_hostMem (s : State) :
    (complete s).hostMem = s.hostMem := rfl
@[simp] theorem complete_stage (s : State) :
    (complete s).stage = s.stage := rfl
@[simp] theorem complete_hostRead (s : State) :
    (complete s).hostRead = s.hostRead := rfl
@[simp] theorem complete_hostResult (s : State) :
    (complete s).hostResult = s.hostResult := rfl
@[simp] theorem complete_sched (s : State) :
    (complete s).sched = s.sched := rfl
@[simp] theorem complete_envMode (s : State) :
    (complete s).envMode = s.envMode := rfl
@[simp] theorem complete_answers (s : State) :
    (complete s).answers = s.answers := rfl
@[simp] theorem complete_draws (s : State) :
    (complete s).draws = s.draws := rfl
@[simp] theorem complete_trace (s : State) :
    (complete s).trace = s.trace := rfl
@[simp] theorem complete_recorded (s : State) :
    (complete s).recorded = s.recorded := rfl

@[simp] theorem raise_params (e : ResultCode) (s : State) :
    (raise e s).params = s.params := rfl
@[simp] theorem raise_cmd (e : ResultCode) (s : State) :
    (raise e s).cmd = s.cmd := rfl
@[simp] theorem raise_port (e : ResultCode) (s : State) :
    (raise e s).port = s.port := rfl
@[simp] theorem raise_portWritten (e : ResultCode) (s : State) :
    (raise e s).portWritten = s.portWritten := rfl
@[simp] theorem raise_sb (e : ResultCode) (s : State) :
    (raise e s).sb = s.sb := rfl
@[simp] theorem raise_sbWritten (e : ResultCode) (s : State) :
    (raise e s).sbWritten = s.sbWritten := rfl
@[simp] theorem raise_result (e : ResultCode) (s : State) :
    (raise e s).result = e := rfl
@[simp] theorem raise_pollcnt (e : ResultCode) (s : State) :
    (raise e s).pollcnt = s.pollcnt := rfl
@[simp] theorem raise_pollLimit (e : ResultCode) (s : State) :
    (raise e s).pollLimit = s.pollLimit := rfl
@[simp] theorem raise_phase (e : ResultCode) (s : State) :
    (raise e s).phase = .idle := rfl
@[simp] theorem raise_script (e : ResultCode) (s : State) :
    (raise e s).script = s.script := rfl
@[simp] theorem raise_sp (e : ResultCode) (s : State) :
    (raise e s).sp = s.sp := rfl
@[simp] theorem raise_plc (e : ResultCode) (s : State) :
    (raise e s).plc = s.plc := rfl
@[simp] theorem raise_lcmd (e : ResultCode) (s : State) :
    (raise e s).lcmd = s.lcmd := rfl
@[simp] theorem raise_lport (e : ResultCode) (s : State) :
    (raise e s).lport = s.lport := rfl
@[simp] theorem raise_out (e : ResultCode) (s : State) :
    (raise e s).out = none := rfl
@[simp] theorem raise_ctrls (e : ResultCode) (s : State) :
    (raise e s).ctrls = s.ctrls := rfl
@[simp] theorem raise_prog (e : ResultCode) (s : State) :
    (raise e s).prog = s.prog := rfl
@[simp] theorem raise_hostMem (e : ResultCode) (s : State) :
    (raise e s).hostMem = s.hostMem := rfl
@[simp] theorem raise_stage (e : ResultCode) (s : State) :
    (raise e s).stage = s.stage := rfl
@[simp] theorem raise_hostRead (e : ResultCode) (s : State) :
    (raise e s).hostRead = s.hostRead := rfl
@[simp] theorem raise_hostResult (e : ResultCode) (s : State) :
    (raise e s).hostResult = s.hostResult := rfl
@[simp] theorem raise_sched (e : ResultCode) (s : State) :
    (raise e s).sched = s.sched := rfl
@[simp] theorem raise_envMode (e : ResultCode) (s : State) :
    (raise e s).envMode = s.envMode := rfl
@[simp] theorem raise_answers (e : ResultCode) (s : State) :
    (raise e s).answers = s.answers := rfl
@[simp] theorem raise_draws (e : ResultCode) (s : State) :
    (raise e s).draws = s.draws := rfl
@[simp] theorem raise_trace (e : ResultCode) (s : State) :
    (raise e s).trace = s.trace := rfl
@[simp] theorem raise_recorded (e : ResultCode) (s : State) :
    (raise e s).recorded = s.recorded := rfl

@[simp] theorem moveOn_params (op : MicroOp) (s : State) :
    (moveOn op s).params = s.params := rfl
@[simp] theorem moveOn_cmd (op : MicroOp) (s : State) :
    (moveOn op s).cmd = s.cmd := rfl
@[simp] theorem moveOn_port (op : MicroOp) (s : State) :
    (moveOn op s).port = s.port := rfl
@[simp] theorem moveOn_portWritten (op : MicroOp) (s : State) :
    (moveOn op s).portWritten = s.portWritten := rfl
@[simp] theorem moveOn_sb (op : MicroOp) (s : State) :
    (moveOn op s).sb = s.sb := rfl
@[simp] theorem moveOn_sbWritten (op : MicroOp) (s : State) :
    (moveOn op s).sbWritten = s.sbWritten := rfl
@[simp] theorem moveOn_result (op : MicroOp) (s : State) :
    (moveOn op s).result = s.result := rfl
@[simp] theorem moveOn_pollcnt (op : MicroOp) (s : State) :
    (moveOn op s).pollcnt = s.pollcnt := rfl
@[simp] theorem moveOn_pollLimit (op : MicroOp) (s : State) :
    (moveOn op s).pollLimit = s.pollLimit := rfl
@[simp] theorem moveOn_phase (op : MicroOp) (s : State) :
    (moveOn op s).phase = .issue := rfl
@[simp] theorem moveOn_script (op : MicroOp) (s : State) :
    (moveOn op s).script = s.script := rfl
@[simp] theorem moveOn_sp (op : MicroOp) (s : State) :
    (moveOn op s).sp = s.sp + 1 := rfl
@[simp] theorem moveOn_plc (op : MicroOp) (s : State) :
    (moveOn op s).plc = if op.isPoll then 0 else s.plc := rfl
@[simp] theorem moveOn_lcmd (op : MicroOp) (s : State) :
    (moveOn op s).lcmd = s.lcmd := rfl
@[simp] theorem moveOn_lport (op : MicroOp) (s : State) :
    (moveOn op s).lport = s.lport := rfl
@[simp] theorem moveOn_out (op : MicroOp) (s : State) :
    (moveOn op s).out = s.out := rfl
@[simp] theorem moveOn_ctrls (op : MicroOp) (s : State) :
    (moveOn op s).ctrls = s.ctrls := rfl
@[simp] theorem moveOn_prog (op : MicroOp) (s : State) :
    (moveOn op s).prog = s.prog := rfl
@[simp] theorem moveOn_hostMem (op : MicroOp) (s : State) :
    (moveOn op s).hostMem = s.hostMem := rfl
@[simp] theorem moveOn_stage (op : MicroOp) (s : State) :
    (moveOn op s).stage = s.stage := rfl
@[simp] theorem moveOn_hostRead (op : MicroOp) (s : State) :
    (moveOn op s).hostRead = s.hostRead := rfl
@[simp] theorem moveOn_hostResult (op : MicroOp) (s : State) :
    (moveOn op s).hostResult = s.hostResult := rfl
@[simp] theorem moveOn_sched (op : MicroOp) (s : State) :
    (moveOn op s).sched = s.sched := rfl
@[simp] theorem moveOn_envMode (op : MicroOp) (s : State) :
    (moveOn op s).envMode = s.envMode := rfl
@[simp] theorem moveOn_answers (op : MicroOp) (s : State) :
    (moveOn op s).answers = s.answers := rfl
@[simp] theorem moveOn_draws (op : MicroOp) (s : State) :
    (moveOn op s).draws = s.draws := rfl
@[simp] theorem moveOn_trace (op : MicroOp) (s : State) :
    (moveOn op s).trace = s.trace := rfl
@[simp] theorem moveOn_recorded (op : MicroOp) (s : State) :
    (moveOn op s).recorded = s.recorded := rfl

@[simp] theorem setController_params (c : Controller) (s : State) :
    (setController c s).params = s.params := rfl
@[simp] theorem setController_cmd (c : Controller) (s : State) :
    (setController c s).cmd = s.cmd := rfl
@[simp] theorem setController_port (c : Controller) (s : State) :
    (setController c s).port = s.port := rfl
@[simp] theorem setController_portWritten (c : Controller) (s : State) :
    (setController c s).portWritten = s.portWritten := rfl
@[simp] theorem setController_sb (c : Controller) (s : State) :
    (setController c s).sb = s.sb := rfl
@[simp] theorem setController_sbWritten (c : Controller) (s : State) :
    (setController c s).sbWritten = s.sbWritten := rfl
@[simp] theorem setController_result (c : Controller) (s : State) :
    (setController c s).result = s.result := rfl
@[simp] theorem setController_pollcnt (c : Controller) (s : State) :
    (setController c s).pollcnt = s.pollcnt := rfl
@[simp] theorem setController_pollLimit (c : Controller) (s : State) :
    (setController c s).pollLimit = s.pollLimit := rfl
@[simp] theorem setController_phase (c : Controller) (s : State) :
    (setController c s).phase = s.phase := rfl
@[simp] theorem setController_script (c : Controller) (s : State) :
    (setController c s).script = s.script := rfl
@[simp] theorem setController_sp (c : Controller) (s : State) :
    (setController c s).sp = s.sp := rfl
@[simp] theorem setController_plc (c : Controller) (s : State) :
    (setController c s).plc = s.plc := rfl
@[simp] theorem setController_lcmd (c : Controller) (s : State) :
    (setController c s).lcmd = s.lcmd := rfl
@[simp] theorem setController_lport (c : Controller) (s : State) :
    (setController c s).lport = s.lport := rfl
@[simp] theorem setController_out (c : Controller) (s : State) :
    (setController c s).out = s.out := rfl
@[simp] theorem setController_ctrls (c : Controller) (s : State) :
    (setController c s).ctrls = portSet s.ctrls s.lport c := rfl
@[simp] theorem setController_prog (c : Controller) (s : State) :
    (setController c s).prog = s.prog := rfl
@[simp] theorem setController_hostMem (c : Controller) (s : State) :
    (setController c s).hostMem = s.hostMem := rfl
@[simp] theorem setController_stage (c : Controller) (s : State) :
    (setController c s).stage = s.stage := rfl
@[simp] theorem setController_hostRead (c : Controller) (s : State) :
    (setController c s).hostRead = s.hostRead := rfl
@[simp] theorem setController_hostResult (c : Controller) (s : State) :
    (setController c s).hostResult = s.hostResult := rfl
@[simp] theorem setController_sched (c : Controller) (s : State) :
    (setController c s).sched = s.sched := rfl
@[simp] theorem setController_envMode (c : Controller) (s : State) :
    (setController c s).envMode = s.envMode := rfl
@[simp] theorem setController_answers (c : Controller) (s : State) :
    (setController c s).answers = s.answers := rfl
@[simp] theorem setController_draws (c : Controller) (s : State) :
    (setController c s).draws = s.draws := rfl
@[simp] theorem setController_trace (c : Controller) (s : State) :
    (setController c s).trace = s.trace := rfl
@[simp] theorem setController_recorded (c : Controller) (s : State) :
    (setController c s).recorded = s.recorded := rfl

@[simp] theorem bump_params (s : State) :
    (bump s).params = s.params := rfl
@[simp] theorem bump_cmd (s : State) :
    (bump s).cmd = s.cmd := rfl
@[simp] theorem bump_port (s : State) :
    (bump s).port = s.port := rfl
@[simp] theorem bump_portWritten (s : State) :
    (bump s).portWritten = s.portWritten := rfl
@[simp] theorem bump_sb (s : State) :
    (bump s).sb = s.sb := rfl
@[simp] theorem bump_sbWritten (s : State) :
    (bump s).sbWritten = s.sbWritten := rfl
@[simp] theorem bump_result (s : State) :
    (bump s).result = s.result := rfl
@[simp] theorem bump_pollcnt (s : State) :
    (bump s).pollcnt = s.pollcnt := rfl
@[simp] theorem bump_pollLimit (s : State) :
    (bump s).pollLimit = s.pollLimit := rfl
@[simp] theorem bump_phase (s : State) :
    (bump s).phase = s.phase := rfl
@[simp] theorem bump_script (s : State) :
    (bump s).script = s.script := rfl
@[simp] theorem bump_sp (s : State) :
    (bump s).sp = s.sp := rfl
@[simp] theorem bump_plc (s : State) :
    (bump s).plc = s.plc := rfl
@[simp] theorem bump_lcmd (s : State) :
    (bump s).lcmd = s.lcmd := rfl
@[simp] theorem bump_lport (s : State) :
    (bump s).lport = s.lport := rfl
@[simp] theorem bump_out (s : State) :
    (bump s).out = s.out := rfl
@[simp] theorem bump_ctrls (s : State) :
    (bump s).ctrls = s.ctrls := rfl
@[simp] theorem bump_prog (s : State) :
    (bump s).prog = s.prog := rfl
@[simp] theorem bump_hostMem (s : State) :
    (bump s).hostMem = s.hostMem := rfl
@[simp] theorem bump_stage (s : State) :
    (bump s).stage = s.stage := rfl
@[simp] theorem bump_hostRead (s : State) :
    (bump s).hostRead = s.hostRead := rfl
@[simp] theorem bump_hostResult (s : State) :
    (bump s).hostResult = s.hostResult := rfl
@[simp] theorem bump_sched (s : State) :
    (bump s).sched = s.sched := rfl
@[simp] theorem bump_envMode (s : State) :
    (bump s).envMode = s.envMode := rfl
@[simp] theorem bump_answers (s : State) :
    (bump s).answers = s.answers := rfl
@[simp] theorem bump_draws (s : State) :
    (bump s).draws = s.draws + drawStride := rfl
@[simp] theorem bump_trace (s : State) :
    (bump s).trace = s.trace := rfl
@[simp] theorem bump_recorded (s : State) :
    (bump s).recorded = s.recorded := rfl

@[simp] theorem issue_params (op : MicroOp) (s : State) :
    (issue op s).params = s.params := rfl
@[simp] theorem issue_cmd (op : MicroOp) (s : State) :
    (issue op s).cmd = s.cmd := rfl
@[simp] theorem issue_port (op : MicroOp) (s : State) :
    (issue op s).port = s.port := rfl
@[simp] theorem issue_portWritten (op : MicroOp) (s : State) :
    (issue op s).portWritten = s.portWritten := rfl
@[simp] theorem issue_sb (op : MicroOp) (s : State) :
    (issue op s).sb = s.sb := rfl
@[simp] theorem issue_sbWritten (op : MicroOp) (s : State) :
    (issue op s).sbWritten = s.sbWritten := rfl
@[simp] theorem issue_result (op : MicroOp) (s : State) :
    (issue op s).result = s.result := rfl
@[simp] theorem issue_pollcnt (op : MicroOp) (s : State) :
    (issue op s).pollcnt = s.pollcnt := rfl
@[simp] theorem issue_pollLimit (op : MicroOp) (s : State) :
    (issue op s).pollLimit = s.pollLimit := rfl
@[simp] theorem issue_phase (op : MicroOp) (s : State) :
    (issue op s).phase = .wait := rfl
@[simp] theorem issue_script (op : MicroOp) (s : State) :
    (issue op s).script = s.script := rfl
@[simp] theorem issue_sp (op : MicroOp) (s : State) :
    (issue op s).sp = s.sp := rfl
@[simp] theorem issue_plc (op : MicroOp) (s : State) :
    (issue op s).plc = s.plc := rfl
@[simp] theorem issue_lcmd (op : MicroOp) (s : State) :
    (issue op s).lcmd = s.lcmd := rfl
@[simp] theorem issue_lport (op : MicroOp) (s : State) :
    (issue op s).lport = s.lport := rfl
@[simp] theorem issue_out (op : MicroOp) (s : State) :
    (issue op s).out = some (request s op) := rfl
@[simp] theorem issue_ctrls (op : MicroOp) (s : State) :
    (issue op s).ctrls = s.ctrls := rfl
@[simp] theorem issue_prog (op : MicroOp) (s : State) :
    (issue op s).prog = s.prog := rfl
@[simp] theorem issue_hostMem (op : MicroOp) (s : State) :
    (issue op s).hostMem = s.hostMem := rfl
@[simp] theorem issue_stage (op : MicroOp) (s : State) :
    (issue op s).stage = s.stage := rfl
@[simp] theorem issue_hostRead (op : MicroOp) (s : State) :
    (issue op s).hostRead = s.hostRead := rfl
@[simp] theorem issue_hostResult (op : MicroOp) (s : State) :
    (issue op s).hostResult = s.hostResult := rfl
@[simp] theorem issue_sched (op : MicroOp) (s : State) :
    (issue op s).sched = s.sched := rfl
@[simp] theorem issue_envMode (op : MicroOp) (s : State) :
    (issue op s).envMode = s.envMode := rfl
@[simp] theorem issue_answers (op : MicroOp) (s : State) :
    (issue op s).answers = s.answers := rfl
@[simp] theorem issue_draws (op : MicroOp) (s : State) :
    (issue op s).draws = s.draws := rfl
@[simp] theorem issue_trace (op : MicroOp) (s : State) :
    (issue op s).trace = s.trace := rfl
@[simp] theorem issue_recorded (op : MicroOp) (s : State) :
    (issue op s).recorded = recordIssue op s := rfl

@[simp] theorem loadSb_params (d : Sector) (s : State) :
    (loadSb d s).params = s.params := rfl
@[simp] theorem loadSb_cmd (d : Sector) (s : State) :
    (loadSb d s).cmd = s.cmd := rfl
@[simp] theorem loadSb_port (d : Sector) (s : State) :
    (loadSb d s).port = s.port := rfl
@[simp] theorem loadSb_portWritten (d : Sector) (s : State) :
    (loadSb d s).portWritten = s.portWritten := rfl
@[simp] theorem loadSb_sb (d : Sector) (s : State) :
    (loadSb d s).sb = d := rfl
@[simp] theorem loadSb_sbWritten (d : Sector) (s : State) :
    (loadSb d s).sbWritten = sbAllWritten := rfl
@[simp] theorem loadSb_result (d : Sector) (s : State) :
    (loadSb d s).result = s.result := rfl
@[simp] theorem loadSb_pollcnt (d : Sector) (s : State) :
    (loadSb d s).pollcnt = s.pollcnt := rfl
@[simp] theorem loadSb_pollLimit (d : Sector) (s : State) :
    (loadSb d s).pollLimit = s.pollLimit := rfl
@[simp] theorem loadSb_phase (d : Sector) (s : State) :
    (loadSb d s).phase = s.phase := rfl
@[simp] theorem loadSb_script (d : Sector) (s : State) :
    (loadSb d s).script = s.script := rfl
@[simp] theorem loadSb_sp (d : Sector) (s : State) :
    (loadSb d s).sp = s.sp := rfl
@[simp] theorem loadSb_plc (d : Sector) (s : State) :
    (loadSb d s).plc = s.plc := rfl
@[simp] theorem loadSb_lcmd (d : Sector) (s : State) :
    (loadSb d s).lcmd = s.lcmd := rfl
@[simp] theorem loadSb_lport (d : Sector) (s : State) :
    (loadSb d s).lport = s.lport := rfl
@[simp] theorem loadSb_out (d : Sector) (s : State) :
    (loadSb d s).out = s.out := rfl
@[simp] theorem loadSb_ctrls (d : Sector) (s : State) :
    (loadSb d s).ctrls = s.ctrls := rfl
@[simp] theorem loadSb_prog (d : Sector) (s : State) :
    (loadSb d s).prog = s.prog := rfl
@[simp] theorem loadSb_hostMem (d : Sector) (s : State) :
    (loadSb d s).hostMem = s.hostMem := rfl
@[simp] theorem loadSb_stage (d : Sector) (s : State) :
    (loadSb d s).stage = s.stage := rfl
@[simp] theorem loadSb_hostRead (d : Sector) (s : State) :
    (loadSb d s).hostRead = s.hostRead := rfl
@[simp] theorem loadSb_hostResult (d : Sector) (s : State) :
    (loadSb d s).hostResult = s.hostResult := rfl
@[simp] theorem loadSb_sched (d : Sector) (s : State) :
    (loadSb d s).sched = s.sched := rfl
@[simp] theorem loadSb_envMode (d : Sector) (s : State) :
    (loadSb d s).envMode = s.envMode := rfl
@[simp] theorem loadSb_answers (d : Sector) (s : State) :
    (loadSb d s).answers = s.answers := rfl
@[simp] theorem loadSb_draws (d : Sector) (s : State) :
    (loadSb d s).draws = s.draws := rfl
@[simp] theorem loadSb_trace (d : Sector) (s : State) :
    (loadSb d s).trace = s.trace := rfl
@[simp] theorem loadSb_recorded (d : Sector) (s : State) :
    (loadSb d s).recorded = s.recorded := rfl

@[simp] theorem pollAgain_params (s : State) :
    (pollAgain s).params = s.params := rfl
@[simp] theorem pollAgain_cmd (s : State) :
    (pollAgain s).cmd = s.cmd := rfl
@[simp] theorem pollAgain_port (s : State) :
    (pollAgain s).port = s.port := rfl
@[simp] theorem pollAgain_portWritten (s : State) :
    (pollAgain s).portWritten = s.portWritten := rfl
@[simp] theorem pollAgain_sb (s : State) :
    (pollAgain s).sb = s.sb := rfl
@[simp] theorem pollAgain_sbWritten (s : State) :
    (pollAgain s).sbWritten = s.sbWritten := rfl
@[simp] theorem pollAgain_result (s : State) :
    (pollAgain s).result = s.result := rfl
@[simp] theorem pollAgain_pollcnt (s : State) :
    (pollAgain s).pollcnt = s.pollcnt := rfl
@[simp] theorem pollAgain_pollLimit (s : State) :
    (pollAgain s).pollLimit = s.pollLimit := rfl
@[simp] theorem pollAgain_phase (s : State) :
    (pollAgain s).phase = .issue := rfl
@[simp] theorem pollAgain_script (s : State) :
    (pollAgain s).script = s.script := rfl
@[simp] theorem pollAgain_sp (s : State) :
    (pollAgain s).sp = s.sp := rfl
@[simp] theorem pollAgain_plc (s : State) :
    (pollAgain s).plc = s.plc := rfl
@[simp] theorem pollAgain_lcmd (s : State) :
    (pollAgain s).lcmd = s.lcmd := rfl
@[simp] theorem pollAgain_lport (s : State) :
    (pollAgain s).lport = s.lport := rfl
@[simp] theorem pollAgain_out (s : State) :
    (pollAgain s).out = s.out := rfl
@[simp] theorem pollAgain_ctrls (s : State) :
    (pollAgain s).ctrls = s.ctrls := rfl
@[simp] theorem pollAgain_prog (s : State) :
    (pollAgain s).prog = s.prog := rfl
@[simp] theorem pollAgain_hostMem (s : State) :
    (pollAgain s).hostMem = s.hostMem := rfl
@[simp] theorem pollAgain_stage (s : State) :
    (pollAgain s).stage = s.stage := rfl
@[simp] theorem pollAgain_hostRead (s : State) :
    (pollAgain s).hostRead = s.hostRead := rfl
@[simp] theorem pollAgain_hostResult (s : State) :
    (pollAgain s).hostResult = s.hostResult := rfl
@[simp] theorem pollAgain_sched (s : State) :
    (pollAgain s).sched = s.sched := rfl
@[simp] theorem pollAgain_envMode (s : State) :
    (pollAgain s).envMode = s.envMode := rfl
@[simp] theorem pollAgain_answers (s : State) :
    (pollAgain s).answers = s.answers := rfl
@[simp] theorem pollAgain_draws (s : State) :
    (pollAgain s).draws = s.draws := rfl
@[simp] theorem pollAgain_trace (s : State) :
    (pollAgain s).trace = s.trace := rfl
@[simp] theorem pollAgain_recorded (s : State) :
    (pollAgain s).recorded = s.recorded := rfl

@[simp] theorem countPoll_params (s : State) :
    (countPoll s).params = s.params := rfl
@[simp] theorem countPoll_cmd (s : State) :
    (countPoll s).cmd = s.cmd := rfl
@[simp] theorem countPoll_port (s : State) :
    (countPoll s).port = s.port := rfl
@[simp] theorem countPoll_portWritten (s : State) :
    (countPoll s).portWritten = s.portWritten := rfl
@[simp] theorem countPoll_sb (s : State) :
    (countPoll s).sb = s.sb := rfl
@[simp] theorem countPoll_sbWritten (s : State) :
    (countPoll s).sbWritten = s.sbWritten := rfl
@[simp] theorem countPoll_result (s : State) :
    (countPoll s).result = s.result := rfl
@[simp] theorem countPoll_pollcnt (s : State) :
    (countPoll s).pollcnt = countUp s.params s.pollcnt := rfl
@[simp] theorem countPoll_pollLimit (s : State) :
    (countPoll s).pollLimit = s.pollLimit := rfl
@[simp] theorem countPoll_phase (s : State) :
    (countPoll s).phase = s.phase := rfl
@[simp] theorem countPoll_script (s : State) :
    (countPoll s).script = s.script := rfl
@[simp] theorem countPoll_sp (s : State) :
    (countPoll s).sp = s.sp := rfl
@[simp] theorem countPoll_plc (s : State) :
    (countPoll s).plc = countUp s.params s.plc := rfl
@[simp] theorem countPoll_lcmd (s : State) :
    (countPoll s).lcmd = s.lcmd := rfl
@[simp] theorem countPoll_lport (s : State) :
    (countPoll s).lport = s.lport := rfl
@[simp] theorem countPoll_out (s : State) :
    (countPoll s).out = s.out := rfl
@[simp] theorem countPoll_ctrls (s : State) :
    (countPoll s).ctrls = s.ctrls := rfl
@[simp] theorem countPoll_prog (s : State) :
    (countPoll s).prog = s.prog := rfl
@[simp] theorem countPoll_hostMem (s : State) :
    (countPoll s).hostMem = s.hostMem := rfl
@[simp] theorem countPoll_stage (s : State) :
    (countPoll s).stage = s.stage := rfl
@[simp] theorem countPoll_hostRead (s : State) :
    (countPoll s).hostRead = s.hostRead := rfl
@[simp] theorem countPoll_hostResult (s : State) :
    (countPoll s).hostResult = s.hostResult := rfl
@[simp] theorem countPoll_sched (s : State) :
    (countPoll s).sched = s.sched := rfl
@[simp] theorem countPoll_envMode (s : State) :
    (countPoll s).envMode = s.envMode := rfl
@[simp] theorem countPoll_answers (s : State) :
    (countPoll s).answers = s.answers := rfl
@[simp] theorem countPoll_draws (s : State) :
    (countPoll s).draws = s.draws := rfl
@[simp] theorem countPoll_trace (s : State) :
    (countPoll s).trace = s.trace := rfl
@[simp] theorem countPoll_recorded (s : State) :
    (countPoll s).recorded = s.recorded := rfl

end Sys2Proof.Machine
end

