-- ==== Sys2Proof/Laws/Ops.lean ====
section
/-! SUPPORT. One lemma per shared operation that says everything it can do: acceptance, advance,
the poll rule, the response rule, the delivery of a response. -/

namespace Sys2Proof.Machine

/-- Acceptance acts while idle and has no effect while busy (R21, R91). -/
theorem accept_cases (c : Byte) (act : State → State) (s : State) :
    (s.phase = .idle ∧ accept c act s = act (latch c s)) ∨
      (s.phase ≠ .idle ∧ accept c act s = s) := by
  by_cases h : s.phase = .idle <;> simp [accept, h]

/-- A micro-op that completes ends the script or moves to the next micro-op (R94, R95). -/
theorem advance_cases (s : State) :
    (s.script[s.sp + 1]? = none ∧
        advance s = { s with sp := s.sp + 1, result := .ok, phase := .idle }) ∨
      ∃ op, s.script[s.sp + 1]? = some op ∧
        advance s = { s with
          sp := s.sp + 1, plc := if op.isPoll then 0 else s.plc, phase := .issue } := by
  unfold advance
  cases h : s.script[s.sp + 1]? with
  | none => exact .inl ⟨rfl, rfl⟩
  | some op => exact .inr ⟨op, rfl, rfl⟩

/-- A poll advances on a clear request bit, else stops at the cap, else polls again (R99). -/
theorem pollResponse_cases (v : Byte) (s : State) :
    (requestBit v = false ∧ pollResponse v s = advance (countPoll s)) ∨
      (requestBit v = true ∧ capReached (countPoll s) = true ∧
        pollResponse v s = raise .timeoutError (countPoll s)) ∨
      (requestBit v = true ∧ capReached (countPoll s) = false ∧
        pollResponse v s = pollAgain (countPoll s)) := by
  cases hv : requestBit v <;> cases hc : capReached (countPoll s) <;> simp [pollResponse, hv, hc]

/-- What a response does: an abort, an advance, or the poll rule (R96 to R99). -/
theorem engineResponse_cases (op : MicroOp) (ans : Option Sector) (s : State) :
    (ans = none ∧ engineResponse op ans s = raise .transportError s) ∨
      (∃ d a, ans = some d ∧ op = .poll a ∧ engineResponse op ans s = pollResponse d.b0 s) ∨
      (∃ d a, ans = some d ∧ op = .r8sb a ∧ engineResponse op ans s = advance (loadSb d s)) ∨
      (∃ d, ans = some d ∧ op.isPoll = false ∧ (∀ a, op ≠ .r8sb a) ∧
        engineResponse op ans s = advance s) := by
  cases ans with
  | none => exact .inl ⟨rfl, rfl⟩
  | some d => cases op <;> simp [engineResponse, MicroOp.isPoll]

/-- The controllers' side of a response: one controller replaced, the transaction entered in the
trace, OUT emptied, one fixed answer used up; nothing else. -/
theorem deliver_eq (req : Request) (ans : Option Sector) (s : State) :
    deliver req ans s = { s with
      ctrls := portSet s.ctrls s.lport
        (controllerAfter s.envMode s.params s.draws req ans.isSome (controller s))
      answers := s.answers.tail, out := none
      trace := s.trace ++ [⟨req, some (traceResponse req ans)⟩]
      draws := s.draws + drawStride } := rfl

theorem nvmWf_anyController (n : Nat) : nvmWf (anyController n).nvm = true := by
  have h := nvmWf_freeNvm n
  unfold anyController
  generalize freeNvm n = m at h ⊢
  exact h

theorem writeByte_kept {p : Params} {n : Nat} {a v : Byte} {c : Controller}
    (h : nvmWf c.nvm = true) : nvmWf (writeByte p n a v c).nvm = true := by
  have hl := nvmWf_anyController n
  unfold writeByte ctrl0Write
  generalize anyController n = l at hl ⊢
  (repeat' split) <;> first | exact hl | exact h

theorem writeBytes_kept {p : Params} {n : Nat} {a : Byte} {vs : List Byte} {c : Controller}
    (h : nvmWf c.nvm = true) : nvmWf (writeBytes p n a vs c).nvm = true := by
  induction vs generalizing n a c with
  | nil => exact h
  | cons v vs ih => exact ih (writeByte_kept h)

theorem refWrite_kept {p : Params} {n : Nat} {req : Request} {c : Controller}
    (h : nvmWf c.nvm = true) : nvmWf (refWrite p n req c).nvm = true := by
  have hl := nvmWf_anyController n
  have hw : nvmWf (writeBytes p n req.addr req.wdata c).nvm = true := writeBytes_kept h
  unfold refWrite
  generalize anyController n = l at hl ⊢
  generalize writeBytes p n req.addr req.wdata c = w at hw ⊢
  (repeat' split) <;> first | exact hl | exact h | exact hw

/-- A transaction keeps the NVM well formed. -/
theorem controllerAfter_kept {mode : EnvMode} {p : Params} {n : Nat} {req : Request} {ok : Bool}
    {c : Controller} (h : nvmWf c.nvm = true) :
    nvmWf (controllerAfter mode p n req ok c).nvm = true := by
  have hl := nvmWf_anyController n
  have hw : nvmWf (refWrite p n req c).nvm = true := refWrite_kept h
  unfold controllerAfter failedWrite
  generalize anyController n = l at hl ⊢
  generalize refWrite p n req c = w at hw ⊢
  (repeat' split) <;> first | exact hl | exact h | exact hw

theorem eraseEffect_kept {p : Params} {c : Controller} (h : nvmWf c.nvm = true) :
    nvmWf (eraseEffect p c).nvm = true := by
  unfold eraseEffect
  simp only
  split
  · exact nvmWf_nvmWriteIf _ 4 _ (by omega) (nvmWf_nvmWriteIf _ 3 _ (by omega)
      (nvmWf_nvmWriteIf _ 2 _ (by omega) (nvmWf_nvmWriteIf _ 1 _ (by omega)
        (nvmWf_nvmWriteIf _ 0 _ (by omega) h))))
  · exact h

theorem progEffect_kept {n : Nat} {c : Controller} (h : nvmWf c.nvm = true) :
    nvmWf (progEffect n c).nvm = true := by
  have hf := nvmWf_freeNvm n
  unfold progEffect looseNvm
  generalize freeNvm n = m at hf ⊢
  by_cases hs : opSelect c < 5
  · simp only [hs, if_true]
    by_cases he : c.erased.getLsbD (opSelect c) = true
    · simp only [he, if_true]; exact nvmWf_nvmWrite (opSelect c) c.pl hs h
    · simp only [he]; exact nvmWf_nvmWrite (opSelect c) (Config.freeSector n) hs h
  · simp only [hs, if_false]; exact hf

end Sys2Proof.Machine
end

