-- ==== Sys2Proof/Laws/PerInstr.lean ====
section
/-! SUPPORT. The per-instruction family EncodeFields: the word of a well-formed instruction matches
the mask and the pattern of its row of spec/opcode_table.json. -/

namespace Sys2Proof.Laws

/-- Mask and pattern of each row of the opcode table. -/
def tableRow : Instr → Byte × Byte
  | .ewm _ => (0x07#8, 0x01#8)
  | .erm => (0xFF#8, 0x02#8)
  | .etm => (0xFF#8, 0x03#8)
  | .rds _ => (0x07#8, 0x04#8)
  | .wrs _ => (0x07#8, 0x05#8)
  | .opRead _ => (0x07#8, 0x00#8)
  | .opWritePl _ => (0x07#8, 0x01#8)
  | .opWriteSer _ => (0x07#8, 0x02#8)
  | .opReadPl _ => (0x07#8, 0x03#8)
  | .opReadSer _ => (0x07#8, 0x04#8)
  | .opEraseSectors _ => (0x07#8, 0x05#8)
  | .opProgSector _ => (0x07#8, 0x06#8)
  | .opSoftProg _ => (0x07#8, 0x07#8)
  | .reservedCode0 _ => (0x07#8, 0x00#8)
  | .reservedCode6 _ => (0x07#8, 0x06#8)
  | .reservedCode7 _ => (0x07#8, 0x07#8)
  | .ermArg _ => (0x07#8, 0x02#8)
  | .etmArg _ => (0x07#8, 0x03#8)

/-- The bits of the word that the row fixes have the row's values. -/
def EncodeFields.Statement (i : Instr) : Prop :=
  i.wf = true → encode i &&& (tableRow i).1 = (tableRow i).2

/-- The low three bits of a packed byte are its low field. -/
theorem packFields_low (hi : BitVec 5) (lo : BitVec 3) :
    packFields hi lo &&& 0x07#8 = lo.setWidth 8 := by
  revert hi lo; decide

theorem EncodeFields.ewm (m : BitVec 5) : EncodeFields.Statement (.ewm m) :=
  fun _ => packFields_low m _

theorem EncodeFields.erm : EncodeFields.Statement .erm := fun _ => by decide

theorem EncodeFields.etm : EncodeFields.Statement .etm := fun _ => by decide

theorem EncodeFields.rds (i : BitVec 5) : EncodeFields.Statement (.rds i) :=
  fun _ => packFields_low i _

theorem EncodeFields.wrs (i : BitVec 5) : EncodeFields.Statement (.wrs i) :=
  fun _ => packFields_low i _

theorem EncodeFields.opRead (ser : BitVec 5) : EncodeFields.Statement (.opRead ser) :=
  fun _ => packFields_low ser _

theorem EncodeFields.opWritePl (ser : BitVec 5) : EncodeFields.Statement (.opWritePl ser) :=
  fun _ => packFields_low ser _

theorem EncodeFields.opWriteSer (ser : BitVec 5) : EncodeFields.Statement (.opWriteSer ser) :=
  fun _ => packFields_low ser _

theorem EncodeFields.opReadPl (ser : BitVec 5) : EncodeFields.Statement (.opReadPl ser) :=
  fun _ => packFields_low ser _

theorem EncodeFields.opReadSer (ser : BitVec 5) : EncodeFields.Statement (.opReadSer ser) :=
  fun _ => packFields_low ser _

theorem EncodeFields.opEraseSectors (ser : BitVec 5) : EncodeFields.Statement (.opEraseSectors ser) :=
  fun _ => packFields_low ser _

theorem EncodeFields.opProgSector (ser : BitVec 5) : EncodeFields.Statement (.opProgSector ser) :=
  fun _ => packFields_low ser _

theorem EncodeFields.opSoftProg (ser : BitVec 5) : EncodeFields.Statement (.opSoftProg ser) :=
  fun _ => packFields_low ser _

theorem EncodeFields.reservedCode0 (x : BitVec 5) : EncodeFields.Statement (.reservedCode0 x) :=
  fun _ => packFields_low x _

theorem EncodeFields.reservedCode6 (x : BitVec 5) : EncodeFields.Statement (.reservedCode6 x) :=
  fun _ => packFields_low x _

theorem EncodeFields.reservedCode7 (x : BitVec 5) : EncodeFields.Statement (.reservedCode7 x) :=
  fun _ => packFields_low x _

theorem EncodeFields.ermArg (a : BitVec 5) : EncodeFields.Statement (.ermArg a) :=
  fun _ => packFields_low a _

theorem EncodeFields.etmArg (a : BitVec 5) : EncodeFields.Statement (.etmArg a) :=
  fun _ => packFields_low a _

end Sys2Proof.Laws
end

