-- ==== Sys2Proof/Laws/Step.lean ====
section
/-! SUPPORT. What a step can do, said once: every invariant is derived from `step_cases`. -/

namespace Sys2Proof.Machine

/-- The ways a step leads from `s` to `t`, once the agent to move is taken off `sched`. -/
inductive Stepped (s t : State) : Prop where
  /-- Nothing moves: a held action, no action, or an idle block. -/
  | rest (h : t = s)
  /-- A command word reaches the block, which is idle (R21). -/
  | command (a : HostAction) (c : Byte) (rest : List HostAction) (hp : s.prog = a :: rest)
      (hr : resolve s.params a = some (.cmd c)) (hi : s.phase = .idle) (h : exec (decodeCmd c) { s with prog := rest, cmd := c } = .next t)
  /-- Another host action, no write of SB at a busy block (R88, R165). -/
  | host (a b : HostAction) (rest : List HostAction) (hp : s.prog = a :: rest)
      (hr : resolve s.params a = some b) (hb : ∀ c, b ≠ .cmd c)
      (hw : sbWriteRefused b s = false) (h : t = hostEffect b { s with prog := rest })
  /-- The controller completes an opcode (45_ftp_opcodes.md R132). -/
  | opcode (b : Byte) (hb : opcodeInProgress s = some b) (h : exec (decodeCtrl1 b) s = .next t)
  /-- The environment withholds (R38). -/
  | withheld (hw : s.phase ≠ .idle) (h : t = withhold s)
  /-- An issue step (R92). -/
  | issued (op : MicroOp) (hi : s.phase = .issue) (hop : s.script[s.sp]? = some op)
      (h : t = bump (issue op s))
  /-- A response step (R93). -/
  | responded (req : Request) (op : MicroOp) (ans : Option Sector) (hw : s.phase = .wait)
      (ho : s.out = some req) (hop : s.script[s.sp]? = some op) (h : t = respond req op ans s)

/-- One host action that is not held. -/
theorem hostAct_cases {s t : State} {a b : HostAction} {rest : List HostAction}
    (hp : s.prog = a :: rest) (hr : resolve s.params a = some b) (hh : hostHeld b s = false)
    (h : runMove (hostAct b { s with prog := rest }) = .next t) : Stepped s t := by
  by_cases hc : ∃ c, b = .cmd c
  · obtain ⟨c, rfl⟩ := hc
    exact .command a c rest hp hr (by simpa [hostHeld, busy] using hh) h
  · have e : hostAct b { s with prog := rest } =
        if sbWriteRefused b s then .done (.refused .sbWriteBusy)
        else .done (.next (hostEffect b { s with prog := rest })) := by
      cases b <;> first | rfl | exact absurd ⟨_, rfl⟩ hc
    rw [e] at h
    split at h <;> cases h
    next hw => exact .host a b rest hp hr (fun c q => hc ⟨c, q⟩) (by simpa using hw) rfl

theorem hostTurn_cases {s t : State}
    (h : runMove (hostTurn s) = .next t) :
    Stepped s t := by
  unfold hostTurn at h
  cases hp : s.prog with
  | nil => rw [hp] at h; cases h; exact .rest rfl
  | cons a rest =>
    rw [hp] at h
    cases hr : resolve s.params a with
    | none => simp only [hr] at h; cases h
    | some b =>
      simp only [hr] at h
      by_cases hh : hostHeld b s = true
      · simp only [hh, if_true] at h; cases h; exact .rest rfl
      · simp only [hh] at h
        exact hostAct_cases hp hr (by simpa using hh) h

theorem issueTurn_cases {s t : State} (hi : s.phase = .issue) (h : issueTurn s = .next t) :
    Stepped s t := by
  unfold issueTurn at h
  split at h
  · cases h
  · next op hop =>
    split at h <;> cases h
    · exact .withheld (by simp [hi]) rfl
    · exact .issued op hi hop rfl

theorem respondOk_next {s t : State} {req : Request} {op : MicroOp} {d : Sector}
    (h : respondOk req op d s = .next t) : t = respond req op (some d) s := by
  unfold respondOk at h
  split at h <;> cases h
  rfl

theorem waitTurn_cases {s t : State} (hw : s.phase = .wait) (h : waitTurn s = .next t) :
    Stepped s t := by
  unfold waitTurn at h
  split at h
  · cases h
  · next req ho =>
    split at h
    · cases h
    · next op hop =>
      split at h
      · cases h; exact .withheld (by simp [hw]) rfl
      · exact .responded req op _ hw ho hop (respondOk_next h)
      · cases h; exact .responded req op none hw ho hop rfl
      · exact .responded req op _ hw ho hop (respondOk_next h)

theorem envTurn_cases {s t : State}
    (h : runMove (envTurn s) = .next t) :
    Stepped s t := by
  unfold envTurn at h
  cases hb : opcodeInProgress s with
  | some b => rw [hb] at h; exact .opcode b hb h
  | none =>
    rw [hb] at h
    cases hp : s.phase with
    | idle => rw [hp] at h; cases h; exact .rest rfl
    | issue => rw [hp] at h; exact issueTurn_cases hp h
    | wait => rw [hp] at h; exact waitTurn_cases hp h

/-- Everything a step that answers a next state can have done. -/
theorem step_cases {s t : State} (h : step s = .next t) :
    ∃ sc, Stepped { s with sched := sc } t := by
  unfold step nextMove at h
  cases hs : s.sched with
  | nil =>
    refine ⟨[], ?_⟩
    rw [← hs]
    rw [hs] at h
    simp only at h
    split at h
    · exact hostTurn_cases h
    · exact envTurn_cases h
  | cons a sc =>
    rw [hs] at h
    cases a with
    | host => exact ⟨sc, hostTurn_cases h⟩
    | env => exact ⟨sc, envTurn_cases h⟩

/-- What a command does at a state: nothing while busy; while idle it is latched, then rejected or
started (R91). -/
theorem execCommand_cases {c : Byte} {s t : State} (h : exec (decodeCmd c) s = .next t) :
    (s.phase ≠ .idle ∧ t = s) ∨
      (s.phase = .idle ∧ ((∃ e, t = reject e (latch (encode (decodeCmd c)) s)) ∨
        (commandScript s.params (decodeCmd c) ≠ [] ∧
          t = start (commandScript s.params (decodeCmd c)) (latch (encode (decodeCmd c)) s)))) := by
  have key : ∀ (i : Instr), formatOf i = .cmd → exec i s = .next t →
      (s.phase ≠ .idle ∧ t = s) ∨
        (s.phase = .idle ∧ ((∃ e, t = reject e (latch (encode i) s)) ∨
          (commandScript s.params i ≠ [] ∧
            t = start (commandScript s.params i) (latch (encode i) s)))) := by
    intro i hf hx
    cases i <;> simp only [formatOf, reduceCtorEq] at hf <;>
      simp only [exec, execEwm, execErm, execEtm, execRds, execWrs, execReservedCode0,
        execReservedCode6, execReservedCode7, execErmArg, execEtmArg, Host.Outcome.next.injEq]
        at hx <;> subst hx
    case ewm m =>
      rcases accept_cases (encode (.ewm m)) (start (ewmScript s.params m)) s with ⟨hi, e⟩ | ⟨hi, e⟩
      · exact .inr ⟨hi, .inr ⟨by simp [commandScript, ewmScript], e⟩⟩
      · exact .inl ⟨hi, e⟩
    case erm =>
      rcases accept_cases (encode .erm) (start (ermScript s.params)) s with ⟨hi, e⟩ | ⟨hi, e⟩
      · exact .inr ⟨hi, .inr ⟨by simp [commandScript, ermScript], e⟩⟩
      · exact .inl ⟨hi, e⟩
    case etm =>
      rcases accept_cases (encode .etm) (start (etmScript s.params)) s with ⟨hi, e⟩ | ⟨hi, e⟩
      · exact .inr ⟨hi, .inr ⟨by simp [commandScript, etmScript], e⟩⟩
      · exact .inl ⟨hi, e⟩
    case rds i =>
      rcases accept_cases (encode (.rds i)) (acceptIndex i (rdsScript s.params i)) s
        with ⟨hi, e⟩ | ⟨hi, e⟩
      · rw [e]
        by_cases hl : indexLegal i = true
        · exact .inr ⟨hi, .inr ⟨by simp [commandScript, hl, rdsScript],
            by simp [acceptIndex, commandScript, hl]⟩⟩
        · exact .inr ⟨hi, .inl ⟨.argError, by simp [acceptIndex, hl]⟩⟩
      · exact .inl ⟨hi, e⟩
    case wrs i =>
      rcases accept_cases (encode (.wrs i)) (acceptIndex i (wrsScript s.params i)) s
        with ⟨hi, e⟩ | ⟨hi, e⟩
      · rw [e]
        by_cases hl : indexLegal i = true
        · exact .inr ⟨hi, .inr ⟨by simp [commandScript, hl, wrsScript],
            by simp [acceptIndex, commandScript, hl]⟩⟩
        · exact .inr ⟨hi, .inl ⟨.argError, by simp [acceptIndex, hl]⟩⟩
      · exact .inl ⟨hi, e⟩
    all_goals
      rcases accept_cases _ (reject .illegalCommand) s with ⟨hi, e⟩ | ⟨hi, e⟩
      · exact .inr ⟨hi, .inl ⟨.illegalCommand, e⟩⟩
      · exact .inl ⟨hi, e⟩
  have hf : formatOf (decodeCmd c) = .cmd := by
    unfold decodeCmd
    (repeat' split) <;> rfl
  exact key _ hf h

/-- What an opcode does: the controller of LPORT is replaced by one that is as well formed, the
free values may be used; nothing else (45_ftp_opcodes.md R132). -/
theorem execOpcode_cases {b : Byte} {s t : State} (h : exec (decodeCtrl1 b) s = .next t) :
    ∃ c n, t = { setController c s with draws := n } ∧
      (nvmWf (controller s).nvm = true → nvmWf c.nvm = true) ∧ c.busyop = none := by
  have key : ∀ (i : Instr), formatOf i = .ctrl1 → exec i s = .next t →
      ∃ c n, t = { setController c s with draws := n } ∧
        (nvmWf (controller s).nvm = true → nvmWf c.nvm = true) ∧ c.busyop = none := by
    intro i hf hx
    cases i <;> simp only [formatOf, reduceCtorEq] at hf <;>
      simp only [exec, execOpRead, execOpWritePl, execOpWriteSer, execOpReadPl, execOpReadSer,
        execOpEraseSectors, execOpProgSector, execOpSoftProg, Host.Outcome.next.injEq,
        reduceCtorEq] at hx <;> subst hx
    case opRead => exact ⟨_, _, rfl, fun h => h, rfl⟩
    case opWritePl => exact ⟨_, s.draws, rfl, fun h => h, rfl⟩
    case opWriteSer => exact ⟨_, s.draws, rfl, fun h => h, rfl⟩
    case opEraseSectors => exact ⟨_, s.draws, rfl, fun h => eraseEffect_kept h, rfl⟩
    case opProgSector => exact ⟨_, _, rfl, fun h => progEffect_kept h, rfl⟩
    case opSoftProg => exact ⟨_, s.draws, rfl, fun h => h, rfl⟩
  have hf : formatOf (decodeCtrl1 b) = .ctrl1 := by
    unfold decodeCtrl1
    (repeat' split) <;> rfl
  exact key _ hf h

end Sys2Proof.Machine
end

