-- ==== Sys2Proof/Laws/Run.lean ====
section
/-! SUPPORT. Runs of several steps: composition, agreement with the host's `Core.run`, and the
step when it is the environment's turn. -/

namespace Sys2Proof.Machine

theorem reaches_one {s t : State} (h : step s = .next t) : Reaches 1 s t := ⟨t, h, rfl⟩

/-- A run is composed of a first step and the rest. -/
theorem reaches_succ {n : Nat} {s u t : State} (h : step s = .next u) (r : Reaches n u t) :
    Reaches (n + 1) s t := ⟨u, h, r⟩

/-- Runs compose. -/
theorem reaches_trans {n m : Nat} {s u t : State} (h : Reaches n s u) (r : Reaches m u t) :
    Reaches (n + m) s t := by
  induction n generalizing s with
  | zero => cases h; simpa using r
  | succ n ih =>
    obtain ⟨v, hv, hr⟩ := h
    rw [Nat.succ_add]
    exact ⟨v, hv, ih hr⟩

/-- A property that every step keeps holds after a run. -/
theorem reaches_keeps {P : State → Prop} (hk : ∀ s t, P s → step s = .next t → P t) {n : Nat}
    {s t : State} (hs : P s) (r : Reaches n s t) : P t := by
  induction n generalizing s with
  | zero => cases r; exact hs
  | succ n ih =>
    obtain ⟨u, hu, hr⟩ := r
    exact ih (hk s u hs hu) hr

theorem hostRun_succ (M : Host.Core) (n : Nat) {s u : M.State} (h : M.step s = .next u) :
    M.run (n + 1) s = M.run n u := by
  simp only [Host.Core.run, h]

/-- A run is what the host's interface computes. -/
theorem run_of_reaches {n : Nat} {s t : State} (r : Reaches n s t) :
    Host.Core.run Sys2Proof.core n s = .next t := by
  induction n generalizing s with
  | zero => cases r; rfl
  | succ n ih =>
    obtain ⟨u, hu, hr⟩ := r
    exact (hostRun_succ Sys2Proof.core n hu).trans (ih hr)

/-- Where the environment moves, the step is its turn. -/
theorem step_of_envMoves {s u : State} (h : EnvMoves s u) : step s = runMove (envTurn u) := by
  unfold step nextMove
  rcases h with ⟨⟨hs, hr⟩, rfl⟩ | ⟨sc, hs, rfl⟩
  · simp [hs, hr]
  · simp [hs]

/-- The environment's turn with no opcode in progress: what it does depends on PHASE alone. -/
theorem envTurn_of_none {u : State} (ho : opcodeInProgress u = none) :
    runMove (envTurn u) = match u.phase with
      | .idle => .next u
      | .issue => issueTurn u
      | .wait => waitTurn u := by
  simp only [envTurn, ho]
  cases u.phase <;> rfl

/-- The answer to the outstanding transaction, whatever gives it (R93). -/
theorem waitTurn_of_answer {u : State} {req : Request} {op : MicroOp} (hr : u.out = some req)
    (hop : u.script[u.sp]? = some op) :
    waitTurn u = match envAnswer u req with
      | .hold => .next (withhold u)
      | .ok d => respondOk req op d u
      | .error => .next (respond req op none u) := by
  simp only [waitTurn, hr, hop, envAnswer]
  rcases pick u with _ | m
  · rfl
  · cases m <;> rfl

theorem step_of_envMovesNext {s : State} (h : envMovesNext s) (ho : opcodeInProgress s = none) :
    step s = match s.phase with
      | .idle => .next s
      | .issue => issueTurn s
      | .wait => waitTurn s :=
  (step_of_envMoves (.inl ⟨h, rfl⟩)).trans (envTurn_of_none ho)

/-- The environment's turn with an opcode in progress executes it. -/
theorem step_of_opcodeInProgress {s : State} {b : Byte} (h : envMovesNext s)
    (ho : opcodeInProgress s = some b) : step s = exec (decodeCtrl1 b) s := by
  rw [step_of_envMoves (.inl ⟨h, rfl⟩)]
  simp only [envTurn, ho, runMove]

/-- The host's turn at the head of its program, in the default order. -/
theorem step_of_hostReady {s : State} {a b : HostAction} {rest : List HostAction}
    (hs : s.sched = []) (hp : s.prog = a :: rest) (hr : resolve s.params a = some b)
    (hh : hostHeld b s = false) :
    step s = runMove (hostAct b { s with prog := rest }) := by
  unfold step nextMove
  simp [hs, hostReady, hp, hr, hh, hostTurn]

/-- Whether the host can act depends on PHASE, the parameters and the program alone. -/
theorem hostReady_congr {s t : State} (hb : busy t = busy s) (hp : t.params = s.params)
    (hq : t.prog = s.prog) : hostReady t = hostReady s := by
  unfold hostReady
  rw [hp, hq]
  cases s.prog with
  | nil => rfl
  | cons a rest =>
    simp only
    cases resolve s.params a with
    | none => rfl
    | some b => cases b <;> simp [hostHeld, hb]

/-! ### One transaction: an issue step and a response step -/

theorem hostReady_issue {s : State} (op : MicroOp) (hi : s.phase = .issue) :
    hostReady (bump (issue op s)) = hostReady s :=
  hostReady_congr (by simp [busy, hi]; rfl) (by simp) (by simp)

/-- The issue step when the environment does not withhold. -/
theorem issue_step {s : State} {op : MicroOp} (he : envMovesNext s)
    (ho : opcodeInProgress s = none) (hi : s.phase = .issue) (hop : s.script[s.sp]? = some op)
    (hp : pick s ≠ some .hold) : step s = .next (bump (issue op s)) := by
  rw [step_of_envMovesNext he ho, hi]
  simp [issueTurn, hop, hp]

/-- A transaction whose answer is fixed to `ok`. -/
theorem transaction_fixed {s : State} {op : MicroOp} {d : Sector} {rest : List (Option EnvMove)}
    (he : envMovesNext s) (ho : opcodeInProgress s = none) (hi : s.phase = .issue)
    (hop : s.script[s.sp]? = some op) (ha : s.answers = some (.ok d) :: rest)
    (hr : ctrl0Refused s.envMode s.params (request s op) (controller s) = false) :
    Reaches 2 s (respond (request s op) op (some d) (bump (issue op s))) := by
  have h1 := issue_step he ho hi hop (by simp [pick, ha])
  have h2 : step (bump (issue op s)) =
      .next (respond (request s op) op (some d) (bump (issue op s))) := by
    rw [step_of_envMovesNext (s := bump (issue op s)) ⟨he.1, (hostReady_issue op hi).trans he.2⟩ ho]
    have hc : controller (bump (issue op s)) = controller s := rfl
    simp [waitTurn, hop, pick, ha, respondOk, hc, hr]
  exact reaches_succ h1 (reaches_one h2)

/-- A transaction under the unconstrained environment, whose answer is fixed to `ok`, continuing a
run: what the engine's response starts from. The other ports' controllers are untouched. -/
theorem transaction_free {n : Nat} {s₀ s : State} {op : MicroOp} {d : Sector}
    {rest : List (Option EnvMove)} (H : Reaches n s₀ s) (hs : s.sched = []) (hp : s.prog = [])
    (hm : s.envMode = .free) (hi : s.phase = .issue) (hop : s.script[s.sp]? = some op)
    (ha : s.answers = some (.ok d) :: rest) :
    ∃ ctrls draws, (∀ q, q ≠ s.lport → portGet ctrls q = portGet s.ctrls q) ∧
      Reaches (n + 2) s₀ (engineResponse op (some d) { s with
      phase := .wait, recorded := recordIssue op s, out := none
      trace := s.trace ++ [⟨request s op, some (traceResponse (request s op) (some d))⟩]
      answers := rest, ctrls := ctrls, draws := draws }) := by
  have h := transaction_fixed ⟨hs, by simp [hostReady, hp]⟩ (by simp [opcodeInProgress, hm]) hi hop
    ha (by simp [ctrl0Refused, hm])
  refine ⟨(deliver (request s op) (some d) (bump (issue op s))).ctrls,
    (deliver (request s op) (some d) (bump (issue op s))).draws,
    fun q hq => portGet_setController (s := s) _ hq, reaches_trans H ?_⟩
  convert h using 1
  simp only [respond, deliver_eq]
  simp only [bump, issue, ha, List.tail_cons]

/-- A transaction answered by the reference controller. -/
theorem transaction_reference {s : State} {op : MicroOp} (he : envMovesNext s)
    (ho : opcodeInProgress s = none) (hi : s.phase = .issue) (hop : s.script[s.sp]? = some op)
    (ha : s.answers = []) (hm : s.envMode = .reference)
    (hr : ctrl0Refused s.envMode s.params (request s op) (controller s) = false) :
    Reaches 2 s (respond (request s op) op
      (some (refData s.params (s.draws + drawStride) (request s op) (controller s)))
      (bump (issue op s))) := by
  have h1 := issue_step he ho hi hop (by simp [pick, ha, hm])
  have h2 : step (bump (issue op s)) = .next (respond (request s op) op
      (some (refData s.params (s.draws + drawStride) (request s op) (controller s)))
      (bump (issue op s))) := by
    rw [step_of_envMovesNext (s := bump (issue op s)) ⟨he.1, (hostReady_issue op hi).trans he.2⟩ ho]
    have hc : controller (bump (issue op s)) = controller s := rfl
    rw [hm] at hr
    simp [waitTurn, hop, pick, ha, hm, respondOk, hc, hr]
  exact reaches_succ h1 (reaches_one h2)

end Sys2Proof.Machine
end

