-- ==== Sys2Proof/Laws/Reference.lean ====
section
/-! SUPPORT. Runs against the reference controller, one transaction at a time: what the controller
of LPORT is after each micro-op of a script, after an opcode, and after each action of the host. -/

namespace Sys2Proof.Machine

/-! ### The controller on the bus -/

/-- A write of the password register (45_ftp_opcodes.md R131). -/
theorem refWrite_pwd {p : Params} (hv : p.Valid) (n l : Nat) (v : Byte) (c : Controller) :
    refWrite p n ⟨l, .wr, p.addrPwd, 1, [v]⟩ c = { c with pwd := v } := by
  obtain ⟨-, -, -, h, -⟩ := hv
  simp [refWrite, h, writeBytes, writeByte]

/-- A write of CTRL_0 at an unlocked idle controller (R132). -/
theorem refWrite_ctrl0 {p : Params} (hv : p.Valid) (n l : Nat) (v : Byte) {c : Controller}
    (hp : c.pwd = p.pwdUnlock) (hb : c.busyop = none) :
    refWrite p n ⟨l, .wr, p.addrCtrl0, 1, [v]⟩ c =
      { c with c0 := v, busyop := if requestBit v then some (fieldLow c.c1) else none } := by
  obtain ⟨-, h2, -, -, h5, -, -⟩ := hv
  simp [refWrite, writeBytes, writeByte, ctrl0Write, hp, hb, Ne.symm h5, Ne.symm h2]

/-- A write of CTRL_1 at an unlocked idle controller. -/
theorem refWrite_ctrl1 {p : Params} (hv : p.Valid) (n l : Nat) (v : Byte) {c : Controller}
    (hp : c.pwd = p.pwdUnlock) (hb : c.busyop = none) :
    refWrite p n ⟨l, .wr, p.addrCtrl1, 1, [v]⟩ c = { c with c1 := v } := by
  obtain ⟨-, -, h3, -, -, h6, -⟩ := hv
  have h : p.addrCtrl1 ≠ p.addrCtrl0 := by simp [Params.addrCtrl1]
  simp [refWrite, writeBytes, writeByte, hp, hb, Ne.symm h6, Ne.symm h3, h]

/-- A 1-byte write is refused only at CTRL_0 with bit 4 or bit 3 set. -/
theorem ctrl0Refused_one {p : Params} {l : Nat} {a v : Byte} {c : Controller}
    (h : a ≠ p.addrCtrl0 ∨ v &&& 0x18#8 = 0#8) :
    ctrl0Refused .reference p ⟨l, .wr, a, 1, [v]⟩ c = false := by
  simp only [ctrl0Refused, List.headD_cons, decide_eq_false_iff_not]
  rintro ⟨-, ha, -, hv⟩
  rcases h with h | h
  · exact h ha
  · exact hv h

/-- The sector replaced under a mask, as an update of the NVM alone. -/
theorem nvmWriteIf_eq (mask : BitVec 5) (i : Nat) (x : Sector) (c : Controller) :
    nvmWriteIf mask i x c = { c with
      nvm := if mask.getLsbD i then memWriteSector c.nvm (sectorBase i) x else c.nvm } := by
  unfold nvmWriteIf
  split <;> rfl

/-! ### A point of a run -/

/-- Where a run against the reference controller stands, in the default order: the parameters, the
port, the script, the host's remaining actions, SB, the host's storage and staging area, PHASE, SP
and the controller of the port. -/
structure RunsAt (p : Params) (l : Nat) (sc : List MicroOp) (pr : List HostAction) (x : Sector)
    (hm sg : Memory) (ph : Phase) (k : Nat) (c : Controller) (s : State) : Prop where
  sched : s.sched = []
  answers : s.answers = []
  mode : s.envMode = .reference
  params : s.params = p
  lport : s.lport = l
  port : s.port = l
  memory : MemoryKept s
  script : s.script = sc
  sp : s.sp = k
  prog : s.prog = pr
  sb : s.sb = x
  hostMem : s.hostMem = hm
  stage : s.stage = sg
  phase : s.phase = ph
  ctrl : controller s = c
  result : s.phase = .idle → s.result = .ok

/-- The point after micro-op `k` completes: the command has ended, or the next micro-op is to be
issued. -/
def RunsNext (p : Params) (l : Nat) (sc : List MicroOp) (pr : List HostAction) (x : Sector)
    (hm sg : Memory) (k : Nat) (c : Controller) (t : State) : Prop :=
  (sc[k + 1]? = none ∧ ∃ k', RunsAt p l sc pr x hm sg .idle k' c t) ∨
    (sc[k + 1]? ≠ none ∧ RunsAt p l sc pr x hm sg .issue (k + 1) c t)

/-- The host's actions are such that it waits while the engine is busy. -/
def HostWaits (pr : List HostAction) : Prop := pr = [] ∨ ∃ rest, pr = .wait :: rest

variable {p : Params} {l : Nat} {sc : List MicroOp} {pr : List HostAction} {x : Sector}
  {hm sg : Memory} {k : Nat} {c c' : Controller} {s t : State}

theorem RunsNext.issue (h : RunsNext p l sc pr x hm sg k c t) (hn : sc[k + 1]? ≠ none) :
    RunsAt p l sc pr x hm sg .issue (k + 1) c t := by
  rcases h with ⟨e, -⟩ | ⟨-, h⟩
  · exact absurd e hn
  · exact h

theorem RunsNext.idle (h : RunsNext p l sc pr x hm sg k c t) (hn : sc[k + 1]? = none) :
    ∃ k', RunsAt p l sc pr x hm sg .idle k' c t := by
  rcases h with ⟨-, h⟩ | ⟨e, -⟩
  · exact h
  · exact absurd hn e

/-- The controller of the port. -/
theorem RunsAt.portGet {ph : Phase} (h : RunsAt p l sc pr x hm sg ph k c s) :
    Machine.portGet s.ctrls l = c := by
  rw [← h.ctrl, ← h.lport]
  rfl

theorem RunsAt.envMovesNext (h : RunsAt p l sc pr x hm sg .issue k c s) (hh : HostWaits pr) :
    Machine.envMovesNext s := by
  refine ⟨h.sched, ?_⟩
  rcases hh with rfl | ⟨r, rfl⟩ <;> simp [hostReady, h.prog, resolve, hostHeld, busy, h.phase]

/-- A micro-op that completes (R94). -/
theorem RunsAt.advance {ph : Phase} (h : RunsAt p l sc pr x hm sg ph k c s) :
    RunsNext p l sc pr x hm sg k c (Machine.advance s) := by
  obtain ⟨h1, h2, h3, h4, h5, h6, h7, h8, h9, h10, h11, h12, h13, -, h14, -⟩ := h
  rcases advance_cases s with ⟨e, q⟩ | ⟨op, e, q⟩ <;> rw [q] <;> rw [h8, h9] at e
  · exact .inl ⟨e, k + 1, h1, h2, h3, h4, h5, h6, h7, h8, by simp [h9], h10, h11, h12, h13, rfl, h14,
      fun _ => rfl⟩
  · exact .inr ⟨by simp [e], h1, h2, h3, h4, h5, h6, h7, h8, by simp [h9], h10, h11, h12, h13, rfl, h14,
      fun q => by cases q⟩

/-- One transaction: the request, and the answer the reference controller gives. -/
theorem RunsAt.transaction (h : RunsAt p l sc pr x hm sg .issue k c s) (hh : HostWaits pr)
    (hb : c.busyop = none) {op : MicroOp} (hop : sc[k]? = some op)
    (hr : ctrl0Refused .reference p (request s op) c = false) :
    Reaches 2 s (respond (request s op) op
      (some (refData p (s.draws + drawStride) (request s op) c)) (bump (Machine.issue op s))) := by
  have h1 := transaction_reference (op := op) (h.envMovesNext hh)
    (by simp [opcodeInProgress, h.mode, h.ctrl, hb]) h.phase
    (by rw [h.script, h.sp]; exact hop) h.answers h.mode
    (by rw [h.mode, h.params, h.ctrl]; exact hr)
  rw [h.params, h.ctrl] at h1
  exact h1

/-- The environment's side of a response leaves the controller that `controllerAfter` gives. -/
theorem RunsAt.deliver (h : RunsAt p l sc pr x hm sg .issue k c s) {op : MicroOp}
    {ans : Option Sector}
    (hc : ∀ n, controllerAfter .reference p n (request s op) ans.isSome c = c') :
    RunsAt p l sc pr x hm sg .wait k c' (Machine.deliver (request s op) ans
      (bump (Machine.issue op s))) := by
  have e : controllerAfter s.envMode s.params (s.draws + drawStride) (request s op) ans.isSome
      (controller s) = c' := by rw [h.mode, h.params, h.ctrl]; exact hc _
  have wf : nvmWf c'.nvm = true := by
    rw [← e]; exact controllerAfter_kept (nvmWf_portGet _ h.memory.2.2)
  have hd : Machine.deliver (request s op) ans (bump (Machine.issue op s)) =
      { bump (Machine.issue op s) with
        ctrls := portSet s.ctrls s.lport c', answers := s.answers.tail, out := none
        trace := s.trace ++ [⟨request s op, some (traceResponse (request s op) ans)⟩]
        draws := s.draws + drawStride + drawStride } := by rw [deliver_eq, ← e]; rfl
  rw [hd]
  refine ⟨h.sched, by simp [h.answers], h.mode, h.params, h.lport, h.port,
    ⟨h.memory.1, h.memory.2.1, portsWf_portSet (Nat.zero_le _) wf h.memory.2.2⟩, h.script, h.sp, h.prog, h.sb,
    h.hostMem, h.stage, rfl, ?_, fun q => by cases q⟩
  simp [controller, portGet_portSet]

/-- A write micro-op. -/
theorem RunsAt.write (h : RunsAt p l sc pr x hm sg .issue k c s) (hh : HostWaits pr)
    (hb : c.busyop = none) {op : MicroOp} (hop : sc[k]? = some op) (hd : (request s op).dir = .wr)
    (hr : ctrl0Refused .reference p (request s op) c = false)
    (hc : ∀ n, refWrite p n (request s op) c = c') :
    ∃ t, Reaches 2 s t ∧ RunsNext p l sc pr x hm sg k c' t := by
  refine ⟨_, h.transaction hh hb hop hr, ?_⟩
  have h1 := h.deliver (op := op) (c' := c')
    (ans := some (refData p (s.draws + drawStride) (request s op) c))
    fun n => by simp only [controllerAfter, hd, Option.isSome_some, if_true]; exact hc n
  have h2 : ∀ d u, engineResponse op (some d) u = Machine.advance u := by
    intro d u
    cases op <;> first | rfl | cases hd
  unfold respond
  rw [h2]
  exact h1.advance

/-- A 1-byte write that is not the last micro-op. -/
theorem RunsAt.writeOne {a v : Byte} (h : RunsAt p l sc pr x hm sg .issue k c s) (hh : HostWaits pr)
    (hb : c.busyop = none) (hop : sc[k]? = some (.w1 a v)) (hn : sc[k + 1]? ≠ none)
    (ha : a ≠ p.addrCtrl0 ∨ v &&& 0x18#8 = 0#8)
    (hc : ∀ n, refWrite p n ⟨l, .wr, a, 1, [v]⟩ c = c') :
    ∃ t, Reaches 2 s t ∧ RunsAt p l sc pr x hm sg .issue (k + 1) c' t := by
  obtain ⟨t, r, q⟩ := h.write hh hb hop rfl
    (by simp only [request, h.lport]; exact ctrl0Refused_one ha)
    (by simp only [request, h.lport]; exact hc)
  exact ⟨t, r, q.issue hn⟩

/-- A poll while no opcode is in progress: the first read has the request bit clear (R132, R133). -/
theorem RunsAt.poll (h : RunsAt p l sc pr x hm sg .issue k c s) (hh : HostWaits pr)
    (hb : c.busyop = none) (hop : sc[k]? = some (.poll p.addrCtrl0)) :
    ∃ t, Reaches 2 s t ∧ RunsNext p l sc pr x hm sg k c t := by
  refine ⟨_, h.transaction hh hb hop rfl, ?_⟩
  have hd := h.deliver (op := .poll p.addrCtrl0) (c' := c)
    (ans := some (refData p (s.draws + drawStride) (request s (.poll p.addrCtrl0)) c)) fun _ => rfl
  unfold respond
  generalize Machine.deliver _ _ _ = u at hd
  have hv : requestBit (refData p (s.draws + drawStride)
      (request s (.poll p.addrCtrl0)) c).b0 = false := by
    simp only [refData, refRead, request, and_self, if_true, Bool.false_eq_true, if_false,
      Option.getD_some, Sector.fill, ctrl0Read, hb, Option.isSome_none, requestBit]
    generalize c.c0 = v
    clear * -
    revert v
    decide
  simp only [engineResponse, pollResponse, hv, if_true]
  exact RunsAt.advance (ph := .wait) ⟨hd.sched, hd.answers, hd.mode, hd.params, hd.lport, hd.port,
    hd.memory, hd.script, hd.sp, hd.prog, hd.sb, hd.hostMem, hd.stage, hd.phase, hd.ctrl, hd.result⟩

/-- The 8-byte read of RWBUF loads RW into SB. -/
theorem RunsAt.sectorRead (hv : p.Valid) (h : RunsAt p l sc pr x hm sg .issue k c s)
    (hh : HostWaits pr) (hb : c.busyop = none)
    (hop : sc[k]? = some (.r8sb p.addrRwbuf)) :
    ∃ t, Reaches 2 s t ∧ RunsNext p l sc pr c.rw hm sg k c t := by
  refine ⟨_, h.transaction hh hb hop rfl, ?_⟩
  have hd := h.deliver (op := .r8sb p.addrRwbuf) (c' := c)
    (ans := some (refData p (s.draws + drawStride) (request s (.r8sb p.addrRwbuf)) c)) fun _ => rfl
  unfold respond
  generalize Machine.deliver _ _ _ = u at hd
  have hr : refData p (s.draws + drawStride) (request s (.r8sb p.addrRwbuf)) c = c.rw := by
    simp [refData, refRead, request, hv.2.2.2.2.1]
  simp only [engineResponse, hr, loadSb]
  exact RunsAt.advance (ph := .wait) ⟨hd.sched, hd.answers, hd.mode, hd.params, hd.lport, hd.port,
    hd.memory, hd.script, hd.sp, hd.prog, rfl, hd.hostMem, hd.stage, hd.phase, hd.ctrl, hd.result⟩

/-- The opcode in progress turns the controller into `c'`. -/
def OpcodeGives (p : Params) (c c' : Controller) : Prop :=
  ∀ op, c.busyop = some op → ∀ s, controller s = c → s.params = p →
    ∃ m, exec (decodeCtrl1 (packFields (fieldHigh c.c1) op)) s =
      .next { setController c' s with draws := m }

/-- The controller completes an opcode (R132). -/
theorem RunsAt.opcode (h : RunsAt p l sc pr x hm sg .issue k c s) (hh : HostWaits pr)
    {op : BitVec 3} (hb : c.busyop = some op) (he : OpcodeGives p c c')
    (hn : nvmWf c'.nvm = true) :
    ∃ t, Reaches 1 s t ∧ RunsAt p l sc pr x hm sg .issue k c' t := by
  obtain ⟨m, he⟩ := he op hb s h.ctrl h.params
  have h1 := step_of_opcodeInProgress (h.envMovesNext hh)
    (b := packFields (fieldHigh c.c1) op) (by simp [opcodeInProgress, h.mode, h.ctrl, hb])
  rw [he] at h1
  refine ⟨_, reaches_one h1, h.sched, h.answers, h.mode, h.params, h.lport, h.port,
    ⟨h.memory.1, h.memory.2.1, setController_kept (s := s) hn h.memory.2.2⟩, h.script, h.sp, h.prog, h.sb,
    h.hostMem, h.stage, h.phase, controller_setController c' s, ?_⟩
  intro q
  have q' : s.phase = .idle := q
  rw [h.phase] at q'
  cases q'

/-- A submit with its opcode and its poll loop. -/
theorem RunsAt.submit {v : Byte} (hv : p.Valid) (h : RunsAt p l sc pr x hm sg .issue k c s)
    (hh : HostWaits pr) (hb : c.busyop = none) (hp : c.pwd = p.pwdUnlock)
    (hop : sc[k]? = some (.w1 p.addrCtrl0 v)) (hn : sc[k + 1]? = some (.poll p.addrCtrl0))
    (hv5 : requestBit v = true) (hv3 : v &&& 0x18#8 = 0#8)
    (he : OpcodeGives p { c with c0 := v, busyop := some (fieldLow c.c1) } c')
    (hb' : c'.busyop = none) (hw : nvmWf c'.nvm = true) :
    ∃ t, Reaches 5 s t ∧ RunsNext p l sc pr x hm sg (k + 1) c' t := by
  obtain ⟨t1, r1, h1⟩ := h.writeOne (c' := { c with c0 := v, busyop := some (fieldLow c.c1) }) hh hb
    hop (by simp [hn]) (.inr hv3) fun n => by rw [refWrite_ctrl0 hv n l v hp hb, hv5]; rfl
  obtain ⟨t2, r2, h2⟩ := h1.opcode hh rfl he hw
  obtain ⟨t3, r3, h3⟩ := h2.poll hh hb' hn
  exact ⟨t3, reaches_trans (reaches_trans r1 r2) r3, h3⟩

/-! ### The host's actions -/

/-- A command is accepted and its script is at its first micro-op. LPORT may be any port before. -/
theorem runsAt_accept {sc' : List MicroOp} (w : Byte) (h1 : s.sched = []) (h2 : s.answers = [])
    (h3 : s.envMode = .reference) (h4 : s.params = p) (h5 : s.port = l) (h6 : MemoryKept s)
    (h7 : s.prog = .cmd w :: pr) (h8 : s.sb = x) (h9 : s.hostMem = hm) (hg : s.stage = sg) (h10 : s.phase = .idle)
    (h11 : portGet s.ctrls l = c)
    (hx : ∀ u : State, u.phase = .idle → u.params = p →
      exec (decodeCmd w) u = .next (start sc' (latch w u))) :
    ∃ t, Reaches 1 s t ∧ RunsAt p l sc' pr x hm sg .issue 0 c t := by
  refine ⟨start sc' (latch w { s with prog := pr, cmd := w }), reaches_one ?_, ?_⟩
  · rw [step_of_hostReady h1 h7 rfl (by simp [hostHeld, busy, h10])]
    exact hx { s with prog := pr, cmd := w } h10 h4
  · exact ⟨h1, h2, h3, h4, h5, h5, h6, rfl, rfl, rfl, h8, h9, hg, rfl, by rw [← h11, ← h5]; rfl,
      fun q => by cases q⟩

/-- The same from a point of a run. -/
theorem RunsAt.accept {sc' : List MicroOp} (w : Byte)
    (h : RunsAt p l sc (.cmd w :: pr) x hm sg .idle k c s)
    (hx : ∀ u : State, u.phase = .idle → u.params = p →
      exec (decodeCmd w) u = .next (start sc' (latch w u))) :
    ∃ t, Reaches 1 s t ∧ RunsAt p l sc' pr x hm sg .issue 0 c t :=
  runsAt_accept w h.sched h.answers h.mode h.params h.port h.memory h.prog h.sb h.hostMem h.stage
    h.phase h.portGet hx

/-- A host action other than a command, at an idle block: what it leaves of SB and of the host's
storage. -/
theorem RunsAt.hostAction {a : HostAction} {x' : Sector} {hm' sg' : Memory} {k' : Nat}
    (h : RunsAt p l sc (a :: pr) x hm sg .idle k c s) (hr : resolve p a = some a)
    (ha : ∀ w, a ≠ .cmd w) (he : ∀ u : State, RunsAt p l sc pr x hm sg .idle k c u →
      RunsAt p l sc pr x' hm' sg' .idle k' c (hostEffect a u)) :
    ∃ t, Reaches 1 s t ∧ RunsAt p l sc pr x' hm' sg' .idle k' c t := by
  have hh : hostHeld a s = false := by cases a <;> simp [hostHeld, busy, h.phase]
  have e : step s = .next (hostEffect a { s with prog := pr }) := by
    rw [step_of_hostReady h.sched h.prog (h.params ▸ hr) hh]
    cases a <;> first
      | rfl
      | exact absurd rfl (ha _)
      | simp [hostAct, sbWriteRefused, busy, h.phase, runMove]
  exact ⟨_, reaches_one e, he _ ⟨h.sched, h.answers, h.mode, h.params, h.lport, h.port, h.memory,
    h.script, h.sp, rfl, h.sb, h.hostMem, h.stage, h.phase, h.ctrl, h.result⟩⟩

/-- The WAIT and the CHECK that follow a command that ended with OK. -/
theorem RunsAt.waitCheck {b : Bool} (h : RunsAt p l sc (.wait :: .check b :: pr) x hm sg .idle k c s) :
    ∃ t, Reaches 2 s t ∧ RunsAt p l sc pr x hm sg .idle k c t := by
  obtain ⟨t1, r1, h1⟩ := h.hostAction rfl (by simp) fun u hu => hu
  obtain ⟨t2, r2, h2⟩ := h1.hostAction rfl (by simp) fun u hu => by
    simpa [hostEffect, hu.result hu.phase] using hu
  exact ⟨t2, reaches_trans r1 r2, h2⟩

/-- LDSB at an idle block. -/
theorem RunsAt.ldsb {y : Sector} (h : RunsAt p l sc (.ldsb y :: pr) x hm sg .idle k c s) :
    ∃ t, Reaches 1 s t ∧ RunsAt p l sc pr y hm sg .idle k c t :=
  h.hostAction rfl (by simp) fun u hu => by
    simp only [hostEffect, loadSb]
    exact ⟨hu.sched, hu.answers, hu.mode, hu.params, hu.lport, hu.port, hu.memory, hu.script, hu.sp,
      hu.prog, rfl, hu.hostMem, hu.stage, hu.phase, hu.ctrl, fun _ => hu.result hu.phase⟩

/-- STSB at an idle block. -/
theorem RunsAt.stsb {d : Nat} (h : RunsAt p l sc (.stsb d :: pr) x hm sg .idle k c s) :
    ∃ t, Reaches 1 s t ∧ RunsAt p l sc pr x (memWriteSector hm d x) sg .idle k c t :=
  h.hostAction rfl (by simp) fun u hu => by
    simp only [hostEffect, sbSeen, hu.phase, if_true, hu.sb, hu.hostMem, bump]
    exact ⟨hu.sched, hu.answers, hu.mode, hu.params, hu.lport, hu.port,
      ⟨memWriteSector_wf _ _ (hu.hostMem ▸ hu.memory.1), hu.memory.2⟩, hu.script, hu.sp, hu.prog,
      rfl, rfl, hu.stage, rfl, hu.ctrl, fun _ => hu.result hu.phase⟩

/-- STSB into the staging area at an idle block (R125). -/
theorem RunsAt.stsbStage {d : Nat} (h : RunsAt p l sc (.stsbStage d :: pr) x hm sg .idle k c s) :
    ∃ t, Reaches 1 s t ∧ RunsAt p l sc pr x hm (memWriteSector sg d x) .idle k c t :=
  h.hostAction rfl (by simp) fun u hu => by
    simp only [hostEffect, sbSeen, hu.phase, if_true, hu.sb, hu.stage, bump]
    exact ⟨hu.sched, hu.answers, hu.mode, hu.params, hu.lport, hu.port,
      ⟨hu.memory.1, memWriteSector_wf _ _ (hu.stage ▸ hu.memory.2.1), hu.memory.2.2⟩, hu.script,
      hu.sp, hu.prog, rfl, hu.hostMem, rfl, rfl, hu.ctrl, fun _ => hu.result hu.phase⟩

/-- The staging area copied into the host's storage (R125). -/
theorem RunsAt.copyStage {d : Nat} (h : RunsAt p l sc (.copyStage d :: pr) x hm sg .idle k c s) :
    ∃ t, Reaches 1 s t ∧
      RunsAt p l sc pr x (memWriteBytes hm d (memReadBytes sg 0 40)) sg .idle k c t :=
  h.hostAction rfl (by simp) fun u hu => by
    simp only [hostEffect, hu.hostMem, hu.stage]
    generalize memReadBytes sg 0 40 = bs
    exact ⟨hu.sched, hu.answers, hu.mode, hu.params, hu.lport, hu.port,
      ⟨memWriteBytes_wf _ _ (hu.hostMem ▸ hu.memory.1), hu.stage ▸ hu.memory.2.1, hu.memory.2.2⟩,
      hu.script, hu.sp, hu.prog, hu.sb, rfl, rfl, hu.phase, hu.ctrl, hu.result⟩

/-- A copy within the host's storage. -/
theorem RunsAt.copy {d a n : Nat} (h : RunsAt p l sc (.copy d a n :: pr) x hm sg .idle k c s) :
    ∃ t, Reaches 1 s t ∧
      RunsAt p l sc pr x (memWriteBytes hm d (memReadBytes hm a n)) sg .idle k c t :=
  h.hostAction rfl (by simp) fun u hu => by
    simp only [hostEffect, hu.hostMem]
    exact ⟨hu.sched, hu.answers, hu.mode, hu.params, hu.lport, hu.port,
      ⟨memWriteBytes_wf _ _ (hu.hostMem ▸ hu.memory.1), hu.memory.2⟩, hu.script, hu.sp, hu.prog,
      hu.sb, rfl, hu.stage, hu.phase, hu.ctrl, hu.result⟩

end Sys2Proof.Machine
end

