-- ==== Sys2Proof/Tests/Slice0.lean ====
section
/-! SUPPORT. Tests against the spec's own words and vectors, and one witness per statement that has
hypotheses: a concrete state and operands that meet them. -/

namespace Sys2Proof.Tests

open Sys2Proof.Machine

/-! ### WellFormed refuses what is no word of its row -/

theorem test_wf_ermArg_zero : (Instr.ermArg 0#5).wf = false := by decide

theorem test_wf_etmArg_zero : (Instr.etmArg 0#5).wf = false := by decide

theorem test_wf_argument_rows : (Instr.ermArg 1#5).wf = true ∧ (Instr.etmArg 31#5).wf = true := by
  decide

theorem test_legal_index_bound :
    (Instr.rds 4#5).legal = true ∧ (Instr.rds 5#5).legal = false ∧
      (Instr.wrs 4#5).legal = true ∧ (Instr.wrs 5#5).legal = false := by decide

theorem test_legal_reserved :
    (Instr.reservedCode0 0#5).legal = false ∧ (Instr.reservedCode6 0#5).legal = false ∧
      (Instr.reservedCode7 0#5).legal = false ∧ (Instr.ermArg 1#5).legal = false ∧
      (Instr.etmArg 1#5).legal = false := by decide

/-! ### Decoding: words written out from R73, R77 and R83 -/

theorem test_decode_ewm : decodeCmd 0b10101001#8 = .ewm 0b10101#5 := by decide

theorem test_decode_erm : decodeCmd 0b00000010#8 = .erm := by decide

theorem test_decode_etm : decodeCmd 0b00000011#8 = .etm := by decide

theorem test_decode_rds : decodeCmd 0b00011100#8 = .rds 3#5 := by decide

theorem test_decode_wrs : decodeCmd 0b00001101#8 = .wrs 1#5 := by decide

theorem test_decode_reserved0 : decodeCmd 0b11111000#8 = .reservedCode0 31#5 := by decide

theorem test_decode_reserved6 : decodeCmd 0b00001110#8 = .reservedCode6 1#5 := by decide

theorem test_decode_reserved7 : decodeCmd 0b00000111#8 = .reservedCode7 0#5 := by decide

theorem test_decode_ermArg : decodeCmd 0b10000010#8 = .ermArg 0b10000#5 := by decide

theorem test_decode_etmArg : decodeCmd 0b00001011#8 = .etmArg 1#5 := by decide

theorem test_decode_opRead : decodeCtrl1 0b00000000#8 = .opRead 0#5 := by decide

theorem test_decode_opWritePl : decodeCtrl1 0b00000001#8 = .opWritePl 0#5 := by decide

theorem test_decode_opWriteSer : decodeCtrl1 0b01010010#8 = .opWriteSer 0b01010#5 := by decide

theorem test_decode_opReadPl : decodeCtrl1 0b00000011#8 = .opReadPl 0#5 := by decide

theorem test_decode_opReadSer : decodeCtrl1 0b00000100#8 = .opReadSer 0#5 := by decide

theorem test_decode_opEraseSectors : decodeCtrl1 0b00000101#8 = .opEraseSectors 0#5 := by decide

theorem test_decode_opProgSector : decodeCtrl1 0b00000110#8 = .opProgSector 0#5 := by decide

theorem test_decode_opSoftProg : decodeCtrl1 0b00000111#8 = .opSoftProg 0#5 := by decide

/-- A word is one byte; no word, no instruction. -/
theorem test_decode_no_word : decode .cmd [] = .error .noWord := rfl

/-! ### Small states -/

/-- Reset, with a host program. -/
def withProg (prog : List HostAction) : State := { State.reset with prog := prog }

/-- An ERM command whose next move is the issue step of micro-op `sp`, with fixed answers. -/
def issuing (sp : Nat) (script : List MicroOp) (answers : List (Option EnvMove)) : State :=
  { State.reset with
    phase := .issue, script := script, sp := sp, lcmd := 0x02#8, answers := answers
    envMode := .free }

/-- The same with the transaction of that micro-op outstanding. -/
def waiting (sp : Nat) (script : List MicroOp) (out : Request)
    (answers : List (Option EnvMove)) : State :=
  { issuing sp script answers with phase := .wait, out := some out }

/-- A poll loop alone. -/
def pollScript : List MicroOp := [.poll 0x96#8]

/-- Its request. -/
def pollRequest : Request := ⟨0, .rd, 0x96#8, 1, []⟩

/-- The first request of ERM. -/
def unlockRequest : Request := ⟨0, .wr, 0x95#8, 1, [0x47#8]⟩

/-- A sector of which byte 0 has the request bit set. -/
def busySector : Sector := Sector.fill 0x20#8

/-- A sector of which byte 0 has the request bit clear and every other bit set. -/
def clearSector : Sector := Sector.fill 0xDF#8

/-- A controller unlocked, idle, with RW = PL = eight bytes 0x5A, all sectors erased. -/
def testController : Controller :=
  { Controller.powerUp with
    pwd := 0x47#8, rw := Sector.fill 0x5A#8, pl := Sector.fill 0x5A#8, erased := 0x1F#5
    nvm := memWriteSector [] 16 (Sector.fill 0x77#8) }

/-- Reset, with that controller changed by `f` at port 0. -/
def withController (f : Controller → Controller) : State :=
  { State.reset with ctrls := [(0, f testController)] }

/-- Forty bytes 1, 2, ... 40. -/
def testImage : List Byte := (List.range 40).map fun n => BitVec.ofNat 8 (n + 1)

/-- The outcome is a next state of which `f` holds. -/
def nextIs (f : State → Bool) : Host.Outcome State Fault Refusal → Bool
  | .next s => f s
  | .fault _ => false
  | .refused _ => false

/-- The outcome is that refusal. -/
def refusedAs (r : Refusal) : Host.Outcome State Fault Refusal → Bool
  | .next _ => false
  | .fault _ => false
  | .refused q => decide (q = r)

/-! ### One step of each instruction -/

/-- R108: EWM 0x1F: twelve micro-ops, the fourth writes 0xFA at CTRL_1 (R82). -/
theorem test_ewm_starts : nextIs (fun t => decide (t.phase = .issue ∧ t.script.length = 12 ∧
    t.script[3]? = some (.w1 0x97#8 0xFA#8))) (step (withProg [.cmd 0xF9#8])) = true := by decide

/-- R74: EWM 0 is accepted and runs the whole handshake. -/
theorem test_ewm_empty_mask : nextIs (fun t => decide (t.phase = .issue ∧ t.script.length = 12 ∧
    t.script[3]? = some (.w1 0x97#8 0x02#8))) (step (withProg [.cmd 0x01#8])) = true := by decide

/-- R111: ERM: unlock, CTRL_0 0x00, CTRL_0 0xC0. -/
theorem test_erm_starts : nextIs (fun t => decide (t.script =
    [.w1 0x95#8 0x47#8, .w1 0x96#8 0x00#8, .w1 0x96#8 0xC0#8]))
    (step (withProg [.cmd 0x02#8])) = true := by decide

/-- R112: ETM: the two bytes {0x40, 0x00} at CTRL_0, then 0x00 to the password register. -/
theorem test_etm_starts : nextIs (fun t => decide (t.script =
    [.w2 0x96#8 0x40#8 0x00#8, .w1 0x95#8 0x00#8])) (step (withProg [.cmd 0x03#8])) = true := by
  decide

/-- R114: RDS 4 submits 0xE4. -/
theorem test_rds_submits : nextIs (fun t => decide (t.script[2]? = some (.w1 0x96#8 0xE4#8)))
    (step (withProg [.cmd 0x24#8])) = true := by decide

/-- R75, R144: RDS 5: STATUS = 0x04 (ArgError in bits 3:1, not busy), no transaction. -/
theorem test_rds_bad_index : nextIs (fun t => decide (status t = 0x04#8 ∧ t.out = none))
    (step (withProg [.cmd 0x2C#8])) = true := by decide

/-- R117, R118: WRS 3 writes the eight SB bytes first and program-sector's submit is 0xE3. -/
theorem test_wrs_order : nextIs (fun t => decide (t.script[0]? = some (.w8sb 0x53#8) ∧
    t.script[6]? = some (.w1 0x96#8 0xE3#8))) (step (withProg [.cmd 0x1D#8])) = true := by decide

/-- R75, R144: WRS 31: ArgError. -/
theorem test_wrs_bad_index : nextIs (fun t => decide (status t = 0x04#8 ∧ t.phase = .idle))
    (step (withProg [.cmd 0xFD#8])) = true := by decide

/-- R84, R144: the reserved words: STATUS = 0x06 (IllegalCommand). -/
theorem test_reserved_rejected : ∀ c ∈ [0x00#8, 0x06#8, 0x07#8, 0x0A#8, 0x0B#8],
    nextIs (fun t => decide (status t = 0x06#8 ∧ t.phase = .idle ∧ t.out = none))
      (step (withProg [.cmd c])) = true := by decide

/-- R135: OP_READ with sector select 2. -/
theorem test_opRead : nextIs (fun t => decide ((controller t).rw = Sector.fill 0x77#8))
    (exec (.opRead 0#5) (withController fun c => { c with c0 := 0xE2#8 })) = true := by decide

/-- R136. -/
theorem test_opWritePl : nextIs (fun t => decide ((controller t).pl = Sector.fill 0x33#8))
    (exec (.opWritePl 0#5) (withController fun c => { c with rw := Sector.fill 0x33#8 })) = true := by
  decide

/-- R137: SER is C1[7:3] and SOFT is cleared. -/
theorem test_opWriteSer : nextIs (fun t => decide ((controller t).ser = 0x15#5 ∧
    (controller t).soft = false))
    (exec (.opWriteSer 0x15#5) (withController fun c => { c with soft := true })) = true := by
  decide

/-- R142. -/
theorem test_opSoftProg : nextIs (fun t => (controller t).soft)
    (exec (.opSoftProg 0#5) (withController id)) = true := by decide

/-- R140: a masked sector is erased, another is kept. -/
theorem test_opEraseSectors : nextIs (fun t => decide (
    nvmRead (controller t) 2 = Sector.fill 0x00#8 ∧ (controller t).erased = 0x04#5))
    (exec (.opEraseSectors 0#5)
      (withController fun c => { c with soft := true, ser := 0x04#5, erased := 0#5 })) = true := by
  decide

/-- R140: "skipping the soft-program step causes the erase to fail silently". -/
theorem test_opErase_without_soft : nextIs (fun t => decide (
    nvmRead (controller t) 2 = Sector.fill 0x77#8 ∧ (controller t).busyop = none))
    (exec (.opEraseSectors 0#5)
      (withController fun c => { c with soft := false, ser := 0x1F#5 })) = true := by decide

/-- R141: an erased sector takes PL and is no longer erased. -/
theorem test_opProgSector : nextIs (fun t => decide (
    nvmRead (controller t) 4 = Sector.fill 0x5A#8 ∧ (controller t).erased = 0x0F#5 ∧
      nvmRead (controller t) 2 = Sector.fill 0x77#8))
    (exec (.opProgSector 0#5) (withController fun c => { c with c0 := 0xE4#8 })) = true := by decide

/-- R138, R139. -/
theorem test_unspecified_opcodes :
    refusedAs .readPlUnspecified (exec (.opReadPl 0#5) State.reset) = true ∧
      refusedAs .readSerUnspecified (exec (.opReadSer 0#5) State.reset) = true := by decide

/-- R131: the password gate: a locked controller ignores CTRL_1. -/
theorem test_password_gate :
    (refWrite Config.defaults 0 ⟨0, .wr, 0x97#8, 1, [0xFA#8]⟩
      { testController with pwd := 0x00#8 }).c1 = 0x00#8 ∧
      (refWrite Config.defaults 0 ⟨0, .wr, 0x97#8, 1, [0xFA#8]⟩ testController).c1 = 0xFA#8 := by
  decide

/-- R131, R112, R60: after a failed write a password write still sets PWD, and a write of RWBUF RW. -/
theorem test_any_state_recovers :
    (refWrite Config.defaults 0 ⟨0, .wr, 0x95#8, 1, [0x00#8]⟩ (failedWrite 0)).pwd = 0x00#8 ∧
      (refWrite Config.defaults 0 ⟨0, .wr, 0x53#8, 8, sectorBytes (Sector.fill 0x11#8)⟩
        (failedWrite 0)).rw = Sector.fill 0x11#8 := ⟨rfl, rfl⟩

/-- R54: the two bytes of ETM's write land at CTRL_0 and CTRL_1. -/
theorem test_two_byte_write :
    (refWrite Config.defaults 0 ⟨0, .wr, 0x96#8, 2, [0x40#8, 0x11#8]⟩ testController).c0 = 0x40#8 ∧
      (refWrite Config.defaults 0 ⟨0, .wr, 0x96#8, 2, [0x40#8, 0x11#8]⟩ testController).c1 =
        0x11#8 := by decide

/-- R80: a poll looks at bit 5 alone: 0xDF ends the loop, 0x20 polls again. -/
theorem test_poll_bit :
    nextIs (fun t => decide (t.phase = .idle ∧ t.result = .ok))
        (step (waiting 0 pollScript pollRequest [some (.ok clearSector)])) = true ∧
      nextIs (fun t => decide (t.phase = .issue ∧ t.sp = 0 ∧ t.plc = 1))
        (step (waiting 0 pollScript pollRequest [some (.ok busySector)])) = true := by decide

/-- R151: "a poll that both clears and reaches the cap succeeds". -/
theorem test_poll_priority : nextIs (fun t => decide (t.result = .ok ∧ t.plc = 1))
    (step { waiting 0 pollScript pollRequest [some (.ok clearSector)] with pollLimit := 1 }) = true := by
  decide

/-- R46, R22: STATUS of an idle block that ended with TimeoutError is 0x08. -/
theorem test_status_timeout : status { State.reset with result := .timeoutError } = 0x08#8 := by
  decide

/-! ### Witnesses -/

theorem witness_DecodeOfEncode : (Instr.ermArg 1#5).wf = true := by decide

theorem witness_AssemblerWords : (4#5).toNat ≤ 4 ∧ 4 < (5#5).toNat ∧ 4 < (31#5).toNat := by decide

theorem witness_CodecFields : (0#5).toNat ≤ 4 ∧ (4#5).toNat ≤ 4 := by decide

theorem witness_StepRunsTheCommandWritten :
    (withProg [.cmd 0x24#8]).prog = .cmd 0x24#8 :: [] ∧ (withProg [.cmd 0x24#8]).phase = .idle ∧
      (withProg [.cmd 0x24#8]).sched = [] ∧
      { withProg [.cmd 0x24#8] with sched := [.host] }.sched = .host :: [] := by decide

theorem witness_StepRunsTheOpcodeInProgress :
    let s := withController fun c => { c with busyop := some 5 }
    s.envMode = .reference ∧ (controller s).busyop = some 5 ∧
      envMovesNext s ∧ { s with sched := [.env] }.sched = .env :: [] := by
  unfold envMovesNext; decide

theorem witness_FetchWordIsRunNext :
    decodeTableWord 8 0xF9 = some (.ewm 0x1F#5) ∧ decodeTableWord 8 0x00 = some (.reservedCode0 0#5) := by
  decide

/-- A CMD write while busy, WAIT while busy and while idle. -/
theorem witness_HeldHostActions :
    (∀ a ∈ [HostAction.cmd 0x02#8, .wait],
      let s := { waiting 0 pollScript pollRequest [] with prog := [a], sched := [.host] }
      s.phase ≠ .idle ∧ s.prog = a :: [] ∧ s.sched = .host :: []) ∧
    (withProg [.wait]).prog = .wait :: [] ∧ (withProg [.wait]).phase = .idle ∧
      (withProg [.wait]).sched = [] := by decide

theorem witness_IdleBlockStaysIdle :
    State.reset.phase = .idle ∧ State.reset.prog = [] ∧ State.reset.sched = [] ∧
      opcodeInProgress State.reset = none := by decide

/-- EnterWriteModeStarts, ReadModeAndExitStart, ReservedWordsRejected. -/
theorem witness_idle : State.reset.phase = .idle := by decide

theorem witness_ReadSectorStarts : State.reset.phase = .idle ∧ (4#5).toNat ≤ 4 := by decide

theorem witness_WriteSectorStarts : State.reset.phase = .idle ∧ (4#5).toNat ≤ 4 := by decide

theorem witness_BadIndexRejected :
    State.reset.phase = .idle ∧ 4 < (5#5).toNat ∧ 4 < (31#5).toNat := by decide

theorem witness_AcceptanceFrame : ∃ t, exec (decodeCmd 0x02#8) State.reset = .next t := ⟨_, rfl⟩

/-- The hypotheses of the statements about the environment's turn: it moves in the default order, and
it is named by `sched` while the host could act. -/
theorem witness_EnvMoves :
    (∀ u ∈ [issuing 0 pollScript [], waiting 0 pollScript pollRequest [some .error]],
      EnvMoves u u) ∧
    (let u := { issuing 0 pollScript [some .hold] with prog := [.port 1] }
     let s := { u with sched := [.env] }
     hostReady s = true ∧ EnvMoves s u ∧ pick u = some .hold) := by
  refine ⟨fun u hu => .inl ⟨?_, rfl⟩, rfl, .inr ⟨[], rfl, rfl⟩, rfl⟩
  revert u
  unfold envMovesNext
  decide

theorem witness_IssuePresentsTheRequest :
    let s := issuing 0 [.w8sb 0x53#8] [some (.ok clearSector)]
    EnvMoves s s ∧ opcodeInProgress s = none ∧ s.phase = .issue ∧
      s.script[s.sp]? = some (.w8sb 0x53#8) ∧ pick s ≠ some .hold := by
  refine ⟨.inl ⟨⟨rfl, rfl⟩, rfl⟩, ?_⟩; decide

theorem witness_EngineWaitsForTheEnvironment :
    let s := issuing 0 pollScript [some .hold]
    let w := waiting 0 pollScript pollRequest [some .hold]
    (EnvMoves s s ∧ opcodeInProgress s = none ∧ pick s = some .hold ∧
      s.script[s.sp]? = some (.poll 0x96#8) ∧ s.phase = .issue) ∧
    (EnvMoves w w ∧ opcodeInProgress w = none ∧ pick w = some .hold ∧
      w.script[w.sp]? = some (.poll 0x96#8) ∧ w.phase = .wait ∧ w.out = some pollRequest) := by
  refine ⟨⟨.inl ⟨⟨rfl, rfl⟩, rfl⟩, ?_⟩, .inl ⟨⟨rfl, rfl⟩, rfl⟩, ?_⟩ <;> decide

theorem witness_AdvanceMovesSpByOne :
    let s := issuing 0 pollScript []
    let u := issuing 0 [.w1 0x96#8 0x00#8, .poll 0x96#8] []
    s.sp + 1 = s.script.length ∧ u.script[u.sp + 1]? = some (.poll 0x96#8) := by decide

theorem witness_WriteAnsweredOkAdvances :
    let s := waiting 0 (ermScript Config.defaults) unlockRequest [some (.ok clearSector)]
    let op : MicroOp := .w1 0x95#8 0x47#8
    EnvMoves s s ∧ opcodeInProgress s = none ∧ s.phase = .wait ∧ s.out = some unlockRequest ∧
      s.script[s.sp]? = some op ∧ unlockRequest = request s op ∧ unlockRequest.dir = .wr ∧
      envAnswer s unlockRequest = .ok clearSector ∧
      ctrl0Refused s.envMode s.params unlockRequest (controller s) = false := by
  refine ⟨.inl ⟨⟨rfl, rfl⟩, rfl⟩, ?_⟩; decide

/-- The issue step, and both answers. -/
theorem witness_SectorReadLoadsSb :
    let r : Request := ⟨0, .rd, 0x53#8, 8, []⟩
    let i := issuing 0 [.r8sb 0x53#8] [some (.ok clearSector)]
    (EnvMoves i i ∧ opcodeInProgress i = none ∧
      i.script[i.sp]? = some (.r8sb 0x53#8) ∧ i.phase = .issue ∧ pick i ≠ some .hold) ∧
    ∀ m : EnvMove,
      let s := waiting 0 [.r8sb 0x53#8] r [some m]
      EnvMoves s s ∧ opcodeInProgress s = none ∧
        s.script[s.sp]? = some (.r8sb 0x53#8) ∧ s.phase = .wait ∧
        s.out = some ⟨s.lport, .rd, 0x53#8, 8, []⟩ ∧ envAnswer s r = m := by
  refine ⟨⟨.inl ⟨⟨rfl, rfl⟩, rfl⟩, ?_⟩, fun m => ⟨.inl ⟨⟨rfl, rfl⟩, rfl⟩, rfl, rfl, rfl, rfl, rfl⟩⟩
  decide

/-- The issue step, and any answer: both readings of bit 5, and an error. -/
theorem witness_PollRule :
    let i := issuing 0 pollScript [some (.ok clearSector)]
    (EnvMoves i i ∧ opcodeInProgress i = none ∧
      i.script[i.sp]? = some (.poll 0x96#8) ∧ i.phase = .issue ∧ pick i ≠ some .hold) ∧
    ∀ m : EnvMove,
      let s := waiting 0 pollScript pollRequest [some m]
      EnvMoves s s ∧ opcodeInProgress s = none ∧
        s.script[s.sp]? = some (.poll 0x96#8) ∧ s.phase = .wait ∧
        s.out = some ⟨s.lport, .rd, 0x96#8, 1, []⟩ ∧ envAnswer s pollRequest = m := by
  refine ⟨⟨.inl ⟨⟨rfl, rfl⟩, rfl⟩, ?_⟩, fun m => ⟨.inl ⟨⟨rfl, rfl⟩, rfl⟩, rfl, rfl, rfl, rfl, rfl⟩⟩
  decide

theorem witness_ErrorAborts :
    let s := waiting 0 pollScript pollRequest [some .error]
    EnvMoves s s ∧ opcodeInProgress s = none ∧ s.phase = .wait ∧ s.out = some pollRequest ∧
      s.script[s.sp]? = some (.poll 0x96#8) ∧ envAnswer s pollRequest = .error :=
  ⟨.inl ⟨⟨rfl, rfl⟩, rfl⟩, rfl, rfl, rfl, rfl, rfl⟩

/-- The state in front of a poll loop, with a cap and with the answers given. -/
def polling (cap : Nat) (ds : List Sector) : State :=
  { issuing 0 pollScript (ds.map fun d => some (.ok d)) with pollLimit := cap }

/-- The hypotheses common to the three clauses of BusyWaitLaw, for the states of the next theorem. -/
theorem witness_BusyWaitLaw : (∀ d ∈ [busySector], d.b0.getLsbD 5 = true) ∧
    ∀ u ∈ [polling 0 [busySector, clearSector], polling 2 [busySector, clearSector],
        polling 1 [busySector], polling 0 [busySector]],
      u.sched = [] ∧ u.prog = [] ∧ u.envMode = .free ∧ u.phase = .issue ∧ u.plc = 0 ∧
        u.pollLimit < 2 ^ u.params.pollcntW ∧ u.script[u.sp]? = some (.poll 0x96#8) := by
  decide

/-- Those of each clause: no cap and a cap of exactly N + 1; a cap of N; no cap. -/
theorem witness_BusyWaitLaw_clauses :
    clearSector.b0.getLsbD 5 = false ∧ (polling 0 [busySector, clearSector]).pollLimit = 0 ∧
      [busySector].length + 1 ≤ (polling 2 [busySector, clearSector]).pollLimit ∧
      (polling 2 [busySector, clearSector]).answers =
        [busySector].map (fun d => some (.ok d)) ++ some (.ok clearSector) :: [] ∧
      1 ≤ (polling 1 [busySector]).pollLimit ∧
      [busySector].length = (polling 1 [busySector]).pollLimit ∧
      (polling 1 [busySector]).answers = [busySector].map (fun d => some (.ok d)) ++ [] ∧
      (polling 0 [busySector]).pollLimit = 0 ∧
      (polling 0 [busySector]).answers = [busySector].map (fun d => some (.ok d)) ++ [] := by
  decide

/-- A state that meets the hypotheses of the whole commands, with `n` transactions answered. -/
def commandAnswered (c : Byte) (n : Nat) : State :=
  { withProg [.cmd c] with
    envMode := .free, answers := List.replicate n (some (.ok clearSector)) }

theorem witness_EnterWriteModeRuns :
    let s := commandAnswered 0xF9#8 12
    0xF9#8 = ((0x1F#5).setWidth 8 <<< 3) ||| 0x01#8 ∧ s.sched = [] ∧ s.envMode = .free ∧
      s.phase = .idle ∧ s.prog = [.cmd 0xF9#8] ∧
      s.answers = (List.replicate 12 clearSector).map (fun d => some (.ok d)) ∧
      clearSector.b0.getLsbD 5 = false := by decide

theorem witness_ReadModeAndExitRun : ∀ p ∈ [(0x02#8, 3), (0x03#8, 2)],
    let s := commandAnswered p.1 p.2
    s.sched = [] ∧ s.envMode = .free ∧ s.phase = .idle ∧ s.prog = [.cmd p.1] ∧
      s.answers = (List.replicate p.2 clearSector).map (fun d => some (.ok d)) := by decide

theorem witness_ReadSectorRuns :
    let s := commandAnswered 0x24#8 6
    (4#5).toNat ≤ 4 ∧ 0x24#8 = ((4#5).setWidth 8 <<< 3) ||| 0x04#8 ∧ s.sched = [] ∧
      s.envMode = .free ∧ s.phase = .idle ∧ s.prog = [.cmd 0x24#8] ∧
      s.answers = (List.replicate 6 clearSector).map (fun d => some (.ok d)) ∧
      clearSector.b0.getLsbD 5 = false := by decide

theorem witness_WriteSectorRuns :
    let s := commandAnswered 0x25#8 8
    (4#5).toNat ≤ 4 ∧ 0x25#8 = ((4#5).setWidth 8 <<< 3) ||| 0x05#8 ∧ s.sched = [] ∧
      s.envMode = .free ∧ s.phase = .idle ∧ s.prog = [.cmd 0x25#8] ∧
      s.answers = (List.replicate 8 clearSector).map (fun d => some (.ok d)) ∧
      clearSector.b0.getLsbD 5 = false := by decide

/-- The reference controller at port 0 unlocked, idle and with every sector erased; one command. -/
def referenceState (c : Byte) : State := { withController id with prog := [.cmd c] }

/-- Masks 0x1F and 0. -/
theorem witness_ReferenceErase : ∀ m ∈ [0x1F#5, 0#5],
    let c := (m.setWidth 8 <<< 3) ||| 0x01#8
    let s := referenceState c
    s.params.Valid ∧ MemoryKept s ∧ s.sched = [] ∧
      s.answers = [] ∧ s.envMode = .reference ∧ s.phase = .idle ∧ s.prog = [.cmd c] ∧
      (portGet s.ctrls s.port).busyop = none := by
  unfold MemoryKept; decide

/-- Sectors 0 and 4. -/
theorem witness_ReferenceWrite : ∀ i ∈ [0#5, 4#5],
    let c := (i.setWidth 8 <<< 3) ||| 0x05#8
    let s := referenceState c
    i.toNat ≤ 4 ∧ s.params.Valid ∧ MemoryKept s ∧
      s.sched = [] ∧ s.answers = [] ∧ s.envMode = .reference ∧ s.phase = .idle ∧
      s.prog = [.cmd c] ∧ (portGet s.ctrls s.port).busyop = none ∧
      locked s.params (portGet s.ctrls s.port) = false ∧
      (portGet s.ctrls s.port).erased.getLsbD i.toNat = true := by
  unfold MemoryKept; decide

/-- Sectors 0 and 4. -/
theorem witness_ReferenceRead : ∀ i ∈ [0#5, 4#5],
    let c := (i.setWidth 8 <<< 3) ||| 0x04#8
    let s := referenceState c
    i.toNat ≤ 4 ∧ s.params.Valid ∧ MemoryKept s ∧
      s.sched = [] ∧ s.answers = [] ∧ s.envMode = .reference ∧ s.phase = .idle ∧
      s.prog = [.cmd c] ∧ (portGet s.ctrls s.port).busyop = none ∧
      locked s.params (portGet s.ctrls s.port) = false := by
  unfold MemoryKept; decide

/-- ReferenceModeCommands: ERM and ETM, with no opcode in progress and with write-SER in
progress. -/
theorem witness_ReferenceModeCommands : ∀ c ∈ [0x02#8, 0x03#8], ∀ b ∈ [none, some 2#3],
    let s := { withController fun c => { c with busyop := b } with prog := [.cmd c] }
    s.params.Valid ∧ MemoryKept s ∧ s.sched = [] ∧ s.answers = [] ∧ s.envMode = .reference ∧
      s.phase = .idle ∧ s.prog = [.cmd c] ∧ locked s.params (portGet s.ctrls s.port) = false ∧
      s.params.pwdUnlock ≠ 0x00#8 ∧ ∀ op ∈ b, op ≠ 3#3 ∧ op ≠ 4#3 := by
  unfold MemoryKept; decide

/-- ReferenceModeCommands: read-PL and read-SER in progress. -/
theorem witness_ReferenceModeCommands_refused : ∀ op ∈ [3#3, 4#3],
    let s := withController fun c => { c with busyop := some op }
    EnvMoves s s ∧ s.envMode = .reference ∧ (controller s).busyop = some op :=
  fun _ _ => ⟨.inl ⟨⟨rfl, rfl⟩, rfl⟩, rfl, rfl⟩

theorem witness_FlashThenReadReturnsTheImage :
    let s := { withController id with prog := flashProgram Config.defaults testImage }
    testImage.length = 40 ∧ 40 ≤ 40 ∧ s.params.Valid ∧
      MemoryKept s ∧ s.sched = [] ∧ s.answers = [] ∧
      s.envMode = .reference ∧ s.phase = .idle ∧ s.prog = flashProgram s.params testImage ∧
      (portGet s.ctrls s.port).busyop = none := by
  unfold MemoryKept; decide

/-- The block in the middle of ERM, waiting for the answer to the unlock, which the environment
withholds. -/
def midErm : State := waiting 0 (ermScript Config.defaults) unlockRequest [some .hold]

/-- StepKeepsInv, InvStepNeverFaults and BusTrafficIsTheSpecs: a state with the invariant, a
transaction outstanding and a step of it. -/
theorem witness_StepKeepsInv :
    Inv midErm ∧ midErm.out = some unlockRequest ∧ step midErm = .next (withhold midErm) := by
  refine ⟨⟨⟨fun _ => ⟨.w1 0x95#8 0x47#8, rfl, rfl⟩, fun h => absurd rfl h⟩, fun _ => ⟨rfl, ?_⟩, ?_,
    rfl, rfl, rfl⟩, rfl, rfl⟩
  · decide
  · unfold WidthsKept; decide

theorem witness_InvAtReset_widths : WidthsKept State.reset := by
  unfold WidthsKept; decide

theorem witness_RunningCommandIsHeld :
    midErm.phase ≠ .idle ∧ step midErm = .next (withhold midErm) ∧
      (withhold midErm).phase ≠ .idle := ⟨by decide, rfl, by decide⟩

/-- StepMakesOneTransactionAtOnePort and RecordedFaultsStay: a step that adds an entry, from a state with every
model fault recorded. -/
theorem witness_StepMakesOneTransactionAtOnePort :
    let s := { waiting 0 pollScript pollRequest [some .error] with
      recorded := ⟨true, true, true, true⟩ }
    ∃ t, step s = .next t ∧ t.trace = s.trace ++ [⟨pollRequest, some .error⟩] := ⟨_, rfl, rfl⟩

/-- A state with a HOST_MAP that names every kind of place, and one host action. -/
def mapped (a : HostAction) : State :=
  { withProg [a] with params := { Config.defaults with
      hostMap := [(0, .reg .cmd), (1, .reg .port), (2, .sb 7), (7, .reg .status)] } }

/-- R51: an access at an address of HOST_MAP is the access to what it names. -/
theorem test_host_bus :
    nextIs (fun t => decide (t.sb.b7 = 0xA5#8 ∧ t.sbWritten = 0x80#8)) (step (mapped (.writeAt 2 0xA5)))
        = true ∧
      nextIs (fun t => decide (t.phase = .issue ∧ t.lcmd = 0x02#8)) (step (mapped (.writeAt 0 0x02)))
        = true ∧
      refusedAs .hostAddressUnmapped (step (mapped (.readAt 3))) = true := by decide

/-- R165, 93 U15: a write of SB while BUSY = 1 has no step. -/
theorem test_sb_write_busy : ∀ a ∈ [HostAction.ldsb clearSector, .writeSb 0 0x01#8],
    refusedAs .sbWriteBusy (step { midErm with prog := [a] }) = true := by decide

/-- R125: STSB into the staging area leaves the host's storage alone, and the copy fills it. -/
theorem test_staging :
    nextIs (fun t => decide (t.stage = [(8, 0x77#8)] ∧ t.hostMem = []))
        (step { withProg [.stsbStage 8] with sb := ⟨0x77#8, 0, 0, 0, 0, 0, 0, 0⟩ }) = true ∧
      nextIs (fun t => decide (t.hostMem = [(108, 0x77#8)]))
        (step { withProg [.copyStage 100] with stage := [(8, 0x77#8)] }) = true := by decide

/-- HostRegisterAccess: each clause, the cap's while idle and while busy. -/
theorem witness_HostRegisterAccess :
    (∀ a ∈ [HostAction.read .cmd, .read .status, .read .pollcnt, .read .pollLimit, .read .port,
        .port 255, .limit 1, .writeReadOnly 0],
      (withProg [a]).sched = [] ∧ (withProg [a]).prog = a :: [] ∧ (withProg [a]).phase = .idle) ∧
    let s := { midErm with prog := [.limit 1] }
    s.sched = [] ∧ s.prog = .limit 1 :: [] ∧ s.phase ≠ .idle := by decide

/-- HostRegisterAccess, the accesses at an address: one that names CMD, one that names a byte of SB,
one that names nothing. -/
theorem witness_HostRegisterAccess_addresses :
    (∀ a ∈ [HostAction.writeAt 0 2, .readAt 2, .writeAt 3 0, .readAt 3],
      (mapped a).sched = [] ∧ (mapped a).prog = a :: [] ∧ (mapped a).phase = .idle) ∧
    hostPlaceAt (mapped .wait).params.hostMap 0 = some (.reg .cmd) ∧
      hostPlaceAt (mapped .wait).params.hostMap 2 = some (.sb 7) ∧
      hostPlaceAt (mapped .wait).params.hostMap 3 = none := by decide

/-- HostSectorBufferAccess: idle and busy, for both directions. -/
theorem witness_HostSectorBufferAccess :
    (∀ a ∈ [HostAction.ldsb clearSector, .stsb 8, .stsbStage 8],
      (withProg [a]).sched = [] ∧ (withProg [a]).prog = a :: [] ∧ (withProg [a]).phase = .idle ∧
        Memory.wf (withProg [a]).hostMem = true ∧ Memory.wf (withProg [a]).stage = true) ∧
    ∀ a ∈ [HostAction.ldsb clearSector, .stsb 8, .stsbStage 8],
      let s := { midErm with prog := [a] }
      s.sched = [] ∧ s.prog = a :: [] ∧ s.phase ≠ .idle := by decide

/-- HostSingleByteAccess: idle and busy, for both directions. -/
theorem witness_HostSingleByteAccess : ∀ a ∈ [HostAction.writeSb 7 0xA5#8, .readSb 7],
    let s := { midErm with prog := [a] }
    (withProg [a]).sched = [] ∧ (withProg [a]).phase = .idle ∧ (withProg [a]).prog = a :: [] ∧
      s.sched = [] ∧ s.phase ≠ .idle ∧ s.prog = a :: [] := by decide

/-- BlockReset: an idle block, one about to issue, and one with a transaction outstanding. -/
theorem witness_BlockReset :
    let s := { midErm with prog := [.reset] }
    let u := { issuing 0 pollScript [] with prog := [.reset] }
    u.sched = [] ∧ u.prog = .reset :: [] ∧ u.phase = .issue ∧ 1 ≠ u.lport ∧
    (withProg [.reset]).sched = [] ∧ (withProg [.reset]).prog = .reset :: [] ∧
      (withProg [.reset]).phase = .idle ∧ s.sched = [] ∧ s.prog = .reset :: [] ∧
      s.phase = .wait ∧ s.out = some unlockRequest := by decide

/-- CheckStopsTheProgram: OK, and a failure without and with cleanup. -/
theorem witness_CheckStopsTheProgram :
    ∀ b ∈ [true, false], ∀ r ∈ [ResultCode.ok, .transportError],
      let s := { withProg [.check b] with result := r }
      s.sched = [] ∧ s.prog = .check b :: [] ∧ s.result = r := by decide

theorem witness_SessionPrograms : 40 ≤ 40 := by decide

theorem witness_ReadCapacityGuard :
    39 < 40 ∧ (withProg (readProgram Config.defaults 0 39)).sched = [] ∧
      (withProg (readProgram Config.defaults 0 39)).prog = readProgram Config.defaults 0 39 := by decide

/-- ReadKeepsTheDestination: READ and its first step. -/
theorem witness_ReadKeepsTheDestination :
    let s := withProg (readProgram Config.defaults 0 40)
    s.prog = readProgram s.params 0 40 ∧ ∃ t, Reaches 1 s t := ⟨rfl, _, _, rfl, rfl⟩

/-- ImageCodecLaws: the last byte of a 40-byte image. -/
theorem witness_ImageCodecLaws : testImage.length = 40 ∧ 7 < 8 ∧ 8 * 4 + 7 < testImage.length := by
  decide

/-- PasswordGate: a locked controller. -/
theorem witness_PasswordGate :
    Config.defaults.Valid ∧ Controller.powerUp.pwd ≠ Config.defaults.pwdUnlock := by decide

/-- SubmitStartsTheOpcode: a submit and a value that is none. -/
theorem witness_SubmitStartsTheOpcode :
    Config.defaults.Valid ∧ testController.pwd = Config.defaults.pwdUnlock ∧
      testController.busyop = none ∧ 0xE4#8 &&& 0x18#8 = 0#8 ∧ 0x40#8 &&& 0x18#8 = 0#8 ∧
      (0xE4#8).getLsbD 5 = true ∧ (0x40#8).getLsbD 5 = false := by decide

/-- SubmitStartsTheOpcode, the refusal: a write of 0x50 to CTRL_0 outstanding at the unlocked
controller, which EXIT_CTRL0 = 0x50 would give. -/
theorem witness_SubmitStartsTheOpcode_refused :
    let s := { withController id with
      params := { Config.defaults with exitCtrl0 := 0x50#8 }, phase := .wait
      script := [.w2 0x96#8 0x50#8 0x00#8], out := some ⟨0, .wr, 0x96#8, 2, [0x50#8, 0x00#8]⟩ }
    let r : Request := ⟨s.lport, .wr, s.params.addrCtrl0, 2, [0x50#8, 0x00#8]⟩
    EnvMoves s s ∧ opcodeInProgress s = none ∧ s.envMode = .reference ∧ s.phase = .wait ∧
      s.script[s.sp]? = some (.w2 0x96#8 0x50#8 0x00#8) ∧ s.out = some r ∧
      envAnswer s r = .ok (refData s.params s.draws r (controller s)) ∧
      (controller s).pwd = s.params.pwdUnlock ∧ 0x50#8 &&& 0x18#8 ≠ 0#8 :=
  ⟨.inl ⟨⟨rfl, rfl⟩, rfl⟩, rfl, rfl, rfl, rfl, rfl, rfl, rfl, by decide⟩

/-- ResetState: a legal and an illegal command word. -/
theorem witness_ResetState : (decodeCmd 0x02#8).legal = true ∧ (decodeCmd 0x00#8).legal = false := by
  decide

/-- OpReadLoadsTheSector, RegisterOpcodes, OpEraseSectors, OpcodeFrame: canonical memory, sector
select 4, an erase with SOFT and one without. -/
theorem witness_opcodes :
    let s := withController fun c => { c with c0 := 0xE4#8, ser := 0x10#5 }
    let u := withController fun c => { c with c0 := 0xE4#8, ser := 0x10#5, soft := true }
    MemoryKept s ∧ sectorSelect (controller s).c0 < 5 ∧ (controller s).soft = false ∧
      MemoryKept u ∧ (controller u).soft = true ∧ (controller u).ser.getLsbD (39 / 8) = true := by
  unfold MemoryKept; decide

/-- OpProgSector: sector 4 erased, sector 4 not erased, and a select of 5. -/
theorem witness_OpProgSector :
    let s := withController fun c => { c with c0 := 0xE4#8 }
    let u := withController fun c => { c with c0 := 0xE4#8, erased := 0x0F#5 }
    MemoryKept s ∧ 4 = sectorSelect (controller s).c0 ∧ 4 < 5 ∧
      (controller s).erased.getLsbD 4 = true ∧ MemoryKept u ∧
      4 = sectorSelect (controller u).c0 ∧ (controller u).erased.getLsbD 4 = false ∧
      5 = sectorSelect (controller (withController fun c => { c with c0 := 0xE5#8 })).c0 := by
  unfold MemoryKept; decide

theorem witness_OpcodeFrame :
    MemoryKept (withController id) ∧
      ∃ t, exec (decodeCtrl1 0x07#8) (withController id) = .next t := by
  refine ⟨?_, _, rfl⟩
  unfold MemoryKept; decide

end Sys2Proof.Tests
end

section
/-! SUPPORT. What the moves of the machine keep of the engine's registers: one lemma per kind of
move, from which the machine's invariant (10_state.md R31, R35, R102) and what a running command
holds (R27, R29, R34) are both derived. -/

namespace Sys2Proof.Machine

/-! ### Command words and scripts -/

theorem encode_decodeCmd (c : Byte) : encode (decodeCmd c) = c := by
  revert c; decide

/-- No script is longer than EnterWriteMode's (R107). -/
theorem commandScript_length_le (p : Params) (i : Instr) : (commandScript p i).length ≤ 12 := by
  unfold commandScript
  split
  case h_4 => split <;> simp [rdsScript]
  case h_5 => split <;> simp [wrsScript]
  all_goals simp [ewmScript, ermScript, etmScript]

/-- A request depends on the latched port and on SB alone. -/
theorem request_congr {s t : State} (hl : t.lport = s.lport) (hb : t.sb = s.sb) (op : MicroOp) :
    request t op = request s op := by
  cases op <;> simp [request, hl, hb]

/-! ### Moves that leave the engine where it stands -/

/-- The engine's registers are in `t` as they are in `s`; while a command runs, SB and POLL_LIMIT
too. -/
structure SameEngine (s t : State) : Prop where
  params : t.params = s.params
  result : t.result = s.result
  phase : t.phase = s.phase
  script : t.script = s.script
  sp : t.sp = s.sp
  plc : t.plc = s.plc
  pollcnt : t.pollcnt = s.pollcnt
  lcmd : t.lcmd = s.lcmd
  lport : t.lport = s.lport
  out : t.out = s.out
  sb : s.phase ≠ .idle → t.sb = s.sb
  pollLimit : s.phase ≠ .idle → t.pollLimit = s.pollLimit

theorem SameEngine.refl (s : State) : SameEngine s s :=
  ⟨rfl, rfl, rfl, rfl, rfl, rfl, rfl, rfl, rfl, rfl, fun _ => rfl, fun _ => rfl⟩

theorem withhold_sameEngine (s : State) : SameEngine s (withhold s) :=
  ⟨rfl, rfl, rfl, rfl, rfl, rfl, rfl, rfl, rfl, rfl, fun _ => rfl, fun _ => rfl⟩

theorem opcode_sameEngine (c : Controller) (n : Nat) (s : State) :
    SameEngine s { setController c s with draws := n } :=
  ⟨rfl, rfl, rfl, rfl, rfl, rfl, rfl, rfl, rfl, rfl, fun _ => rfl, fun _ => rfl⟩

/-- A write of SB that is not refused finds the block idle (R165). -/
theorem phase_idle_of_not_sbWriteRefused {b : HostAction} {s : State}
    (h : sbWriteRefused b s = false)
    (hb : (∃ x, b = .ldsb x) ∨ ∃ k v, b = .writeSb k v) : s.phase = .idle := by
  rcases hb with ⟨x, rfl⟩ | ⟨k, v, rfl⟩ <;> simpa [sbWriteRefused, busy] using h

/-- Whether a write of SB is refused does not depend on the actions still to come. -/
theorem sbWriteRefused_prog (b : HostAction) (s : State) (rest : List HostAction) :
    sbWriteRefused b { s with prog := rest } = sbWriteRefused b s := by
  cases b <;> rfl

theorem stopProgram_sameEngine (cleanup : Bool) (s : State) :
    SameEngine s (stopProgram cleanup s) := by
  cases cleanup <;>
    exact ⟨rfl, rfl, rfl, rfl, rfl, rfl, rfl, rfl, rfl, rfl, fun _ => rfl, fun _ => rfl⟩

/-- No host action but a reset touches the engine; SB and POLL_LIMIT are written only while it is
idle (R29, R165). (`simp only` opens `copyStage` first: left to unification, its 40-byte read is
unfolded.) -/
theorem hostEffect_sameEngine {b : HostAction} {s : State} (hr : b ≠ .reset)
    (hw : sbWriteRefused b s = false) : SameEngine s (hostEffect b s) := by
  cases b
  case reset => exact absurd rfl hr
  case limit v =>
    by_cases hi : s.phase = .idle
    · have e : hostEffect (.limit v) s = { s with pollLimit := v % 2 ^ s.params.pollcntW } :=
        if_pos hi
      rw [e]
      exact ⟨rfl, rfl, rfl, rfl, rfl, rfl, rfl, rfl, rfl, rfl, fun _ => rfl, absurd hi⟩
    · have e : hostEffect (.limit v) s = s := if_neg hi
      rw [e]; exact .refl s
  case ldsb x =>
    have hi := phase_idle_of_not_sbWriteRefused hw (.inl ⟨x, rfl⟩)
    exact ⟨rfl, rfl, rfl, rfl, rfl, rfl, rfl, rfl, rfl, rfl, absurd hi, fun _ => rfl⟩
  case writeSb k v =>
    have hi := phase_idle_of_not_sbWriteRefused hw (.inr ⟨k, v, rfl⟩)
    exact ⟨rfl, rfl, rfl, rfl, rfl, rfl, rfl, rfl, rfl, rfl, absurd hi, fun _ => rfl⟩
  case check cleanup =>
    simp only [hostEffect]
    split
    · exact .refl s
    · exact stopProgram_sameEngine cleanup s
  case copyStage d =>
    simp only [hostEffect]
    exact ⟨rfl, rfl, rfl, rfl, rfl, rfl, rfl, rfl, rfl, rfl, fun _ => rfl, fun _ => rfl⟩
  all_goals
    exact ⟨rfl, rfl, rfl, rfl, rfl, rfl, rfl, rfl, rfl, rfl, fun _ => rfl, fun _ => rfl⟩

/-! ### PORT, POLL_LIMIT and the memories -/

/-- A host write of PORT keeps the low bits (log 19). -/
theorem hostEffect_port_lt (b : HostAction) {s : State} (h : s.port < 2 ^ s.params.portW) :
    (hostEffect b s).port < 2 ^ s.params.portW := by
  cases b
  case port v => exact Nat.mod_lt _ (Nat.two_pow_pos _)
  case reset => exact Nat.two_pow_pos _
  case limit v => simp only [hostEffect]; split <;> exact h
  case check cleanup =>
    simp only [hostEffect, stopProgram]
    split
    · exact h
    · split <;> exact h
  case copyStage d => simp only [hostEffect]; exact h
  all_goals exact h

/-- A host write of POLL_LIMIT keeps the low bits (log 19). -/
theorem hostEffect_pollLimit_lt (b : HostAction) {s : State}
    (h : s.pollLimit < 2 ^ s.params.pollcntW) :
    (hostEffect b s).pollLimit < 2 ^ s.params.pollcntW := by
  cases b
  case reset => exact Nat.two_pow_pos _
  case limit v =>
    simp only [hostEffect]
    split
    · exact Nat.mod_lt _ (Nat.two_pow_pos _)
    · exact h
  case check cleanup =>
    simp only [hostEffect, stopProgram]
    split
    · exact h
    · split <;> exact h
  case copyStage d => simp only [hostEffect]; exact h
  all_goals exact h

theorem setController_memoryKept {c : Controller} {s : State} (hc : nvmWf c.nvm = true)
    (h : MemoryKept s) : MemoryKept (setController c s) := by
  obtain ⟨hm, hg, hports⟩ := h
  exact ⟨hm, hg, setController_kept hc hports⟩

theorem dropCommand_memoryKept {s : State} (h : MemoryKept s) : MemoryKept (dropCommand s) := by
  unfold dropCommand
  split
  · exact h
  · exact setController_memoryKept (nvmWf_anyController _) h
  · exact setController_memoryKept (s := { s with trace := _ }) (nvmWf_anyController _) h

theorem hostEffect_memoryKept (b : HostAction) {s : State} (h : MemoryKept s) :
    MemoryKept (hostEffect b s) := by
  obtain ⟨hm, hg, hc⟩ := h
  cases b
  case stsb d => exact ⟨memWriteSector_wf _ _ hm, hg, hc⟩
  case stsbStage k => exact ⟨hm, memWriteSector_wf _ _ hg, hc⟩
  case copy d a n => exact ⟨memWriteBytes_wf _ _ hm, hg, hc⟩
  case copyStage d =>
    simp only [hostEffect]
    generalize memReadBytes s.stage 0 40 = bs
    exact ⟨memWriteBytes_wf _ _ hm, hg, hc⟩
  case reset => exact dropCommand_memoryKept ⟨hm, hg, hc⟩
  case limit v => simp only [hostEffect]; split <;> exact ⟨hm, hg, hc⟩
  case check cleanup =>
    simp only [hostEffect, stopProgram]
    split
    · exact ⟨hm, hg, hc⟩
    · split <;> exact ⟨hm, hg, hc⟩
  all_goals exact ⟨hm, hg, hc⟩

/-! ### The invariant, move by move -/

/-- The invariant carries over where the engine stands as it did. -/
theorem SameEngine.inv {s t : State} (h : SameEngine s t) (hi : Inv s)
    (hp : t.port < 2 ^ s.params.portW) (hl : t.pollLimit < 2 ^ s.params.pollcntW)
    (hm : MemoryKept t) : Inv t := by
  obtain ⟨⟨hwait, hquiet⟩, hrun, ⟨-, hlport, hpollcnt, hplc, -, hsp, hle⟩, -⟩ := hi
  refine ⟨⟨fun hw => ?_, fun hw => ?_⟩, fun hn => ?_, ?_, hm⟩
  · rw [h.phase] at hw
    obtain ⟨op, hop, ho⟩ := hwait hw
    refine ⟨op, by rw [h.script, h.sp, hop], ?_⟩
    rw [h.out, ho, request_congr h.lport (h.sb (by simp [hw]))]
  · rw [h.out]
    exact hquiet (h.phase ▸ hw)
  · rw [h.script, h.params, h.lcmd, h.sp]
    exact hrun (h.phase ▸ hn)
  · unfold WidthsKept
    rw [h.params, h.lport, h.pollcnt, h.plc, h.sp]
    exact ⟨hp, hlport, hpollcnt, hplc, hl, hsp, hle⟩

theorem inv_resetBlock {s : State} (h : MemoryKept s) : Inv (resetBlock s) := by
  have hpos : ∀ n, 0 < 2 ^ n := Nat.two_pow_pos
  refine ⟨⟨fun hw => ?_, fun _ => rfl⟩, fun hn => absurd rfl hn, ?_, h⟩
  · cases hw
  · exact ⟨hpos _, hpos _, hpos _, hpos _, hpos _, Nat.zero_le _, Nat.le_refl _⟩

/-- A host action other than a command keeps the invariant. -/
theorem inv_hostEffect {b : HostAction} {s : State} (hi : Inv s)
    (hw : sbWriteRefused b s = false) : Inv (hostEffect b s) := by
  obtain ⟨-, -, ⟨hport, -, -, -, hlimit, -, -⟩, hm⟩ := id hi
  by_cases hr : b = .reset
  · subst hr
    exact inv_resetBlock (dropCommand_memoryKept hm)
  · exact (hostEffect_sameEngine hr hw).inv hi (hostEffect_port_lt b hport)
      (hostEffect_pollLimit_lt b hlimit) (hostEffect_memoryKept b hm)

/-- An opcode that completes keeps the invariant. -/
theorem inv_opcode {c : Controller} {n : Nat} {s : State} (hi : Inv s)
    (hc : nvmWf (controller s).nvm = true → nvmWf c.nvm = true) :
    Inv { setController c s with draws := n } := by
  obtain ⟨-, -, ⟨hport, -, -, -, hlimit, -, -⟩, hm⟩ := id hi
  exact (opcode_sameEngine c n s).inv hi hport hlimit
    (setController_memoryKept (hc (nvmWf_portGet _ hm.2.2)) hm)

theorem inv_withhold {s : State} (hi : Inv s) : Inv (withhold s) := by
  obtain ⟨-, -, ⟨hport, -, -, -, hlimit, -, -⟩, hm⟩ := id hi
  exact (withhold_sameEngine s).inv hi hport hlimit hm

/-- Latching a command word clears the counters and copies PORT, which fits LPORT's width (R91). -/
theorem inv_latch {s : State} (c : Byte) (hi : Inv s) (hp : s.phase = .idle) :
    Inv (latch c s) := by
  obtain ⟨⟨-, hquiet⟩, -, ⟨hport, -, -, -, hlimit, hsp, -⟩, hm⟩ := hi
  refine ⟨⟨fun hw => ?_, hquiet⟩, absurd hp, ?_, hm⟩
  · rw [latch_phase, hp] at hw
    cases hw
  · exact ⟨hport, hport, Nat.two_pow_pos _, Nat.two_pow_pos _, hlimit, hsp, Nat.le_refl _⟩

theorem inv_reject {s : State} (e : ResultCode) (hi : Inv s) : Inv (reject e s) := hi

/-- A started command is at the first micro-op of the script of LCMD. -/
theorem inv_start {s : State} (hi : Inv s) (hp : s.phase = .idle)
    (hne : commandScript s.params (decodeCmd s.lcmd) ≠ []) :
    Inv (start (commandScript s.params (decodeCmd s.lcmd)) s) := by
  obtain ⟨⟨-, hquiet⟩, -, ⟨hport, hlport, hpollcnt, hplc, hlimit, -, hle⟩, hm⟩ := hi
  refine ⟨⟨fun hw => ?_, fun _ => hquiet (by simp [hp])⟩, fun _ => ⟨rfl, ?_⟩, ?_, hm⟩
  · cases hw
  · exact List.length_pos_of_ne_nil hne
  · exact ⟨hport, hlport, hpollcnt, hplc, hlimit, Nat.zero_le _, hle⟩

/-- A command word that reaches an idle block keeps the invariant. -/
theorem inv_command {c : Byte} {s t : State} (hi : Inv s)
    (h : exec (decodeCmd c) s = .next t) : Inv t := by
  rcases execCommand_cases h with ⟨-, rfl⟩ | ⟨hp, ⟨e, rfl⟩ | ⟨hne, rfl⟩⟩
  · exact hi
  · exact inv_reject e (inv_latch _ hi hp)
  · rw [encode_decodeCmd]
    exact inv_start (s := latch c s) (inv_latch c hi hp) hp hne

/-- An issue step puts the request of the current micro-op into OUT (R92). -/
theorem inv_issue {op : MicroOp} {s : State} (hi : Inv s) (hp : s.phase = .issue)
    (hop : s.script[s.sp]? = some op) : Inv (bump (issue op s)) := by
  obtain ⟨-, hrun, hw, hm⟩ := hi
  refine ⟨⟨fun _ => ⟨op, hop, ?_⟩, fun hn => absurd rfl hn⟩, fun _ => hrun (by simp [hp]), hw, hm⟩
  exact congrArg some (request_congr (s := s) rfl rfl op).symm

/-! ### The invariant over a response -/

/-- What holds between the environment's side of a response and the engine's: a command runs and
nothing is outstanding. -/
structure Answered (s : State) : Prop where
  out : s.out = none
  script : s.script = commandScript s.params (decodeCmd s.lcmd)
  sp : s.sp < s.script.length
  widths : WidthsKept s
  memory : MemoryKept s

theorem answered_deliver {s : State} (req : Request) (ans : Option Sector) (hi : Inv s)
    (hp : s.phase = .wait) : Answered (deliver req ans s) := by
  obtain ⟨-, hrun, hw, hm⟩ := hi
  obtain ⟨hscript, hsp⟩ := hrun (by simp [hp])
  exact ⟨rfl, hscript, hsp, hw,
    setController_memoryKept (controllerAfter_kept (nvmWf_portGet _ hm.2.2)) hm⟩

theorem Answered.loadSb {s : State} (h : Answered s) (d : Sector) :
    Answered (Machine.loadSb d s) := ⟨h.out, h.script, h.sp, h.widths, h.memory⟩

/-- Both poll counters stay within POLLCNT_W bits (R99). -/
theorem countUp_lt (p : Params) (n : Nat) : countUp p n < 2 ^ p.pollcntW := by
  have := Nat.two_pow_pos p.pollcntW
  unfold countUp countMax
  omega

theorem countUp_mono (p : Params) {m n : Nat} (h : m ≤ n) : countUp p m ≤ countUp p n := by
  unfold countUp
  omega

theorem Answered.countPoll {s : State} (h : Answered s) : Answered (Machine.countPoll s) := by
  obtain ⟨hport, hlport, -, -, hlimit, hsp, hle⟩ := h.widths
  exact ⟨h.out, h.script, h.sp, ⟨hport, hlport, countUp_lt _ _, countUp_lt _ _, hlimit, hsp,
    countUp_mono _ hle⟩, h.memory⟩

theorem Answered.inv_raise {s : State} (h : Answered s) (e : ResultCode) : Inv (raise e s) := by
  refine ⟨⟨fun hw => ?_, fun _ => rfl⟩, fun hn => absurd rfl hn, h.widths, h.memory⟩
  cases hw

theorem Answered.inv_pollAgain {s : State} (h : Answered s) : Inv (pollAgain s) := by
  refine ⟨⟨fun hw => ?_, fun _ => h.out⟩, fun _ => ⟨h.script, h.sp⟩, h.widths, h.memory⟩
  cases hw

/-- SP moves on inside the script, or past its end when the command completes (R94, R95). -/
theorem Answered.inv_advance {s : State} (h : Answered s) : Inv (advance s) := by
  obtain ⟨hport, hlport, hpollcnt, hplc, hlimit, -, hle⟩ := h.widths
  have hlen : s.script.length ≤ 12 := h.script ▸ commandScript_length_le _ _
  have hsp : s.sp + 1 ≤ 12 := Nat.le_trans h.sp hlen
  rcases advance_cases s with ⟨-, e⟩ | ⟨op, hop, e⟩ <;> rw [e]
  · refine ⟨⟨fun hw => ?_, fun _ => h.out⟩, fun hn => absurd rfl hn, ?_, h.memory⟩
    · cases hw
    · exact ⟨hport, hlport, hpollcnt, hplc, hlimit, hsp, hle⟩
  · obtain ⟨hlt, -⟩ := List.getElem?_eq_some_iff.mp hop
    refine ⟨⟨fun hw => ?_, fun _ => h.out⟩, fun _ => ⟨h.script, hlt⟩, ?_, h.memory⟩
    · cases hw
    · refine ⟨hport, hlport, hpollcnt, ?_, hlimit, hsp, ?_⟩ <;> simp only <;> split
      · exact Nat.two_pow_pos _
      · exact hplc
      · exact Nat.zero_le _
      · exact hle

theorem Answered.inv_engineResponse {s : State} (h : Answered s) (op : MicroOp)
    (ans : Option Sector) : Inv (engineResponse op ans s) := by
  rcases engineResponse_cases op ans s with
    ⟨-, e⟩ | ⟨d, a, -, -, e⟩ | ⟨d, a, -, -, e⟩ | ⟨d, -, -, -, e⟩ <;> rw [e]
  · exact h.inv_raise _
  · rcases pollResponse_cases d.b0 s with ⟨-, e⟩ | ⟨-, -, e⟩ | ⟨-, -, e⟩ <;> rw [e]
    · exact h.countPoll.inv_advance
    · exact h.countPoll.inv_raise _
    · exact h.countPoll.inv_pollAgain
  · exact (h.loadSb d).inv_advance
  · exact h.inv_advance

/-- Every kind of move keeps the invariant. -/
theorem Stepped.inv {s t : State} (h : Stepped s t) (hi : Inv s) : Inv t := by
  cases h with
  | rest h => exact h ▸ hi
  | command a c rest hp hr hidle h => exact inv_command (s := { s with prog := rest, cmd := c }) hi h
  | host a b rest hp hr hb hw h =>
    subst h
    exact inv_hostEffect (s := { s with prog := rest }) hi
      ((sbWriteRefused_prog b s rest).trans hw)
  | opcode b hb h =>
    obtain ⟨c, n, rfl, hc, -⟩ := execOpcode_cases h
    exact inv_opcode hi hc
  | withheld hw h => exact h ▸ inv_withhold hi
  | issued op hp hop h => exact h ▸ inv_issue hi hp hop
  | responded req op ans hw ho hop h =>
    subst h
    exact (answered_deliver req ans hi hw).inv_engineResponse op ans

/-- Settles O35: the invariant does not speak of `sched`, and every kind of move keeps it. -/
theorem stepKeepsInv : Obligations.StepKeepsInv := by
  intro s t hi h
  obtain ⟨sc, hs⟩ := step_cases h
  exact hs.inv (s := { s with sched := sc }) hi

end Sys2Proof.Machine
end

section
/-! SUPPORT. What a running command holds from step to step (10_state.md R27, R29, R31, R32, R34). -/

namespace Sys2Proof.Machine

/-- What a running command keeps from `s` to `t`, SB apart. -/
structure CommandHeld (s t : State) : Prop where
  lcmd : t.lcmd = s.lcmd
  lport : t.lport = s.lport
  script : t.script = s.script
  result : t.result = s.result
  sp : s.sp ≤ t.sp
  pollLimit : t.pollLimit = s.pollLimit

theorem CommandHeld.trans {s t u : State} (h : CommandHeld s t) (g : CommandHeld t u) :
    CommandHeld s u :=
  ⟨g.lcmd.trans h.lcmd, g.lport.trans h.lport, g.script.trans h.script, g.result.trans h.result,
    h.sp.trans g.sp, g.pollLimit.trans h.pollLimit⟩

theorem SameEngine.commandHeld {s t : State} (h : SameEngine s t) (hb : s.phase ≠ .idle) :
    CommandHeld s t :=
  ⟨h.lcmd, h.lport, h.script, h.result, h.sp.ge, h.pollLimit hb⟩

theorem issue_commandHeld (op : MicroOp) (s : State) : CommandHeld s (bump (issue op s)) :=
  ⟨rfl, rfl, rfl, rfl, le_rfl, rfl⟩

theorem deliver_commandHeld (req : Request) (ans : Option Sector) (s : State) :
    CommandHeld s (deliver req ans s) :=
  ⟨rfl, rfl, rfl, rfl, le_rfl, rfl⟩

theorem countPoll_commandHeld (s : State) : CommandHeld s (countPoll s) :=
  ⟨rfl, rfl, rfl, rfl, le_rfl, rfl⟩

theorem loadSb_commandHeld (d : Sector) (s : State) : CommandHeld s (loadSb d s) :=
  ⟨rfl, rfl, rfl, rfl, le_rfl, rfl⟩

theorem pollAgain_commandHeld (s : State) : CommandHeld s (pollAgain s) :=
  ⟨rfl, rfl, rfl, rfl, le_rfl, rfl⟩

theorem advance_sb (s : State) : (advance s).sb = s.sb := by
  rcases advance_cases s with ⟨-, e⟩ | ⟨op, -, e⟩ <;> rw [e]

/-- A micro-op that completes without ending the script holds the command (R94). -/
theorem advance_commandHeld {s : State} (h : (advance s).phase ≠ .idle) :
    CommandHeld s (advance s) := by
  rcases advance_cases s with ⟨-, e⟩ | ⟨op, -, e⟩ <;> rw [e] at h ⊢
  · exact absurd rfl h
  · exact ⟨rfl, rfl, rfl, rfl, Nat.le_succ _, rfl⟩

/-- A poll after which the command runs on holds the command and SB (R99). -/
theorem pollResponse_held {v : Byte} {s : State} (h : (pollResponse v s).phase ≠ .idle) :
    CommandHeld s (pollResponse v s) ∧ (pollResponse v s).sb = s.sb := by
  rcases pollResponse_cases v s with ⟨-, e⟩ | ⟨-, -, e⟩ | ⟨-, -, e⟩ <;> rw [e] at h ⊢
  · exact ⟨(countPoll_commandHeld s).trans (advance_commandHeld h), advance_sb _⟩
  · exact absurd rfl h
  · exact ⟨(countPoll_commandHeld s).trans (pollAgain_commandHeld _), rfl⟩

/-- A response after which the command runs on holds the command; only an R8SB's changes SB. -/
theorem engineResponse_held {op : MicroOp} {ans : Option Sector} {s : State}
    (h : (engineResponse op ans s).phase ≠ .idle) :
    CommandHeld s (engineResponse op ans s) ∧
      ((engineResponse op ans s).sb = s.sb ∨ ∃ a, op = .r8sb a) := by
  rcases engineResponse_cases op ans s with
    ⟨-, e⟩ | ⟨d, a, -, -, e⟩ | ⟨d, a, -, hop, e⟩ | ⟨d, -, -, -, e⟩ <;> rw [e] at h ⊢
  · exact absurd rfl h
  · exact (pollResponse_held h).imp_right .inl
  · exact ⟨(loadSb_commandHeld d s).trans (advance_commandHeld h), .inr ⟨a, hop⟩⟩
  · exact ⟨advance_commandHeld h, .inl (advance_sb s)⟩

/-- No move that leaves a command running changes what it holds. -/
theorem Stepped.held {s t : State} (h : Stepped s t) (hs : s.phase ≠ .idle)
    (ht : t.phase ≠ .idle) : CommandHeld s t ∧
      (t.sb = s.sb ∨ s.phase = .wait ∧ ∃ a, s.script[s.sp]? = some (.r8sb a)) := by
  have same : ∀ {u}, SameEngine s u → CommandHeld s u ∧
      (u.sb = s.sb ∨ s.phase = .wait ∧ ∃ a, s.script[s.sp]? = some (.r8sb a)) :=
    fun g => ⟨g.commandHeld hs, .inl (g.sb hs)⟩
  cases h with
  | rest h => exact same (h ▸ .refl s)
  | command a c rest hp hr hi h => exact absurd hi hs
  | host a b rest hp hr hb hw h =>
    subst h
    have hreset : b ≠ .reset := by
      rintro rfl
      exact ht rfl
    have g := hostEffect_sameEngine (s := { s with prog := rest }) hreset
      ((sbWriteRefused_prog b s rest).trans hw)
    obtain ⟨hlcmd, hlport, hscript, hresult, hsp, hlimit⟩ := g.commandHeld hs
    exact ⟨⟨hlcmd, hlport, hscript, hresult, hsp, hlimit⟩, .inl (g.sb hs)⟩
  | opcode b hb h =>
    obtain ⟨c, n, rfl, -, -⟩ := execOpcode_cases h
    exact same (opcode_sameEngine c n s)
  | withheld hw h => exact same (h ▸ withhold_sameEngine s)
  | issued op hi hop h =>
    subst h
    exact ⟨issue_commandHeld op s, .inl rfl⟩
  | responded req op ans hw ho hop h =>
    subst h
    obtain ⟨g, hsb⟩ := engineResponse_held ht
    refine ⟨(deliver_commandHeld req ans s).trans g, hsb.imp id ?_⟩
    rintro ⟨a, rfl⟩
    exact ⟨hw, a, hop⟩

/-- Settles O39: what a running command holds does not depend on `sched`, and every kind of move
keeps it. -/
theorem runningCommandIsHeld : Obligations.RunningCommandIsHeld := by
  intro s t hs h ht
  obtain ⟨sc, hm⟩ := step_cases h
  obtain ⟨⟨hlcmd, hlport, hscript, hresult, hsp, hlimit⟩, hsb⟩ :=
    hm.held (s := { s with sched := sc }) hs ht
  exact ⟨hlcmd, hlport, hscript, hresult, hsp, hlimit, hsb⟩

end Sys2Proof.Machine
end

section
/-! SUPPORT. Whose turn it is: the host's turn when `sched` names it or its action is not held, and
a withholding environment's (10_state.md R21, R38; 30_encoding.md R88). -/

namespace Sys2Proof.Machine

/-! ### The host's turn -/

/-- Where `sched` names the host, the step is its turn (log 1). -/
theorem step_of_hostNamed {s : State} {sc : List Agent} (hs : s.sched = .host :: sc) :
    step s = runMove (hostTurn { s with sched := sc }) := by
  simp only [step, nextMove, hs]

/-- The host's turn takes an action that is not held. -/
theorem hostTurn_of_taken {s : State} {a b : HostAction} {rest : List HostAction}
    (hp : s.prog = a :: rest) (hr : resolve s.params a = some b) (hh : hostHeld b s = false) :
    hostTurn s = hostAct b { s with prog := rest } := by
  simp [hostTurn, hp, hr, hh]

/-- The host's turn passes by an action that is held. -/
theorem hostTurn_of_held {s : State} {a b : HostAction} {rest : List HostAction}
    (hp : s.prog = a :: rest) (hr : resolve s.params a = some b) (hh : hostHeld b s = true) :
    hostTurn s = .done (.next s) := by
  simp [hostTurn, hp, hr, hh]

/-- The engine is not busy in PHASE = IDLE (R26). -/
theorem busy_eq_false {s : State} (h : s.phase = .idle) : busy s = false := by simp [busy, h]

theorem busy_eq_true {s : State} (h : s.phase ≠ .idle) : busy s = true := by simpa [busy] using h

/-- A command word written while the engine is busy has no effect (R21). -/
theorem exec_decodeCmd_of_busy (c : Byte) {s : State} (h : s.phase ≠ .idle) :
    exec (decodeCmd c) s = .next s := by
  have hacc : ∀ w act, accept w act s = s := fun w act => if_neg h
  unfold decodeCmd
  (repeat' split) <;>
    simp only [exec, execEwm, execErm, execEtm, execRds, execWrs, execReservedCode0,
      execReservedCode6, execReservedCode7, execErmArg, execEtmArg, hacc]

/-- Settles O6: an idle block holds no CMD write, so the host's turn is the word's execution. -/
theorem stepRunsTheCommandWritten : Obligations.StepRunsTheCommandWritten := by
  intro s c rest hp hi
  have hh : hostHeld (.cmd c) s = false := busy_eq_false hi
  refine ⟨fun hs => ?_, fun sc hs => ?_⟩
  · exact step_of_hostReady hs hp rfl hh
  · rw [step_of_hostNamed hs, hostTurn_of_taken (s := { s with sched := sc }) hp rfl hh]
    rfl

/-- Settles O9: both actions are held exactly while the engine is busy. -/
theorem heldHostActions : Obligations.HeldHostActions := by
  refine ⟨fun s c rest sc hb hp hs => ⟨?_, exec_decodeCmd_of_busy c hb⟩, fun s rest hp =>
    ⟨fun hi hs => ?_, fun sc hb hs => ?_⟩⟩
  · rw [step_of_hostNamed hs,
      hostTurn_of_held (s := { s with sched := sc }) hp rfl (busy_eq_true hb)]
    rfl
  · exact step_of_hostReady hs hp rfl (busy_eq_false hi)
  · rw [step_of_hostNamed hs,
      hostTurn_of_held (s := { s with sched := sc }) hp rfl (busy_eq_true hb)]
    rfl

/-! ### The environment withholds -/

theorem issueTurn_of_hold {u : State} {op : MicroOp} (hop : u.script[u.sp]? = some op)
    (hk : pick u = some .hold) : issueTurn u = .next (withhold u) := by
  simp [issueTurn, hop, hk]

theorem waitTurn_of_hold {u : State} {op : MicroOp} {req : Request} (ho : u.out = some req)
    (hop : u.script[u.sp]? = some op) (hk : pick u = some .hold) :
    waitTurn u = .next (withhold u) := by
  simp [waitTurn_of_answer ho hop, envAnswer, hk]

/-- Settles O19: in ISSUE and in WAIT the environment's turn is `withhold`. -/
theorem engineWaitsForTheEnvironment : Obligations.EngineWaitsForTheEnvironment := by
  intro s u op req he hn hk hop hphase
  rw [step_of_envMoves he, envTurn_of_none hn]
  change _ = Host.Outcome.next (withhold u)
  rcases hphase with hp | ⟨hp, ho⟩ <;> rw [hp]
  · exact issueTurn_of_hold hop hk
  · exact waitTurn_of_hold ho hop hk

end Sys2Proof.Machine
end

section
/-! SUPPORT. The host's side of the block: STATUS, the registers and the sector buffer (10_state.md
section 2; 70_reset_and_hazards.md R165). -/

namespace Sys2Proof.Machine

/-! ### STATUS -/

theorem status_fields (s : State) :
    (status s).getLsbD 0 = busy s ∧ (status s).extractLsb' 4 4 = 0#4 ∧
      (status s).extractLsb' 1 3 = s.result.code := by
  unfold status
  generalize s.result.code = r
  generalize busy s = b
  clear s
  revert r b
  decide

/-- Settles O42: STATUS packs BUSY and the code of RESULT (R25, R144). -/
theorem statusBits : Obligations.StatusBits := by
  intro s
  obtain ⟨hbusy, hzero, hresult⟩ := status_fields s
  refine ⟨?_, hzero, hresult.trans ?_⟩
  · rw [hbusy, busy, bne_iff_ne]
  · cases s.result <;> rfl

/-! ### An action of the host in the default order -/

/-- A step that takes an access at an address is the step that takes the access it stands for. -/
theorem step_of_resolved {s : State} {a b : HostAction} {rest : List HostAction}
    (hs : s.sched = []) (hp : s.prog = a :: rest) (hr : resolve s.params a = some b)
    (hb : resolve s.params b = some b) (hh : hostHeld b s = false) :
    step s = step { s with prog := b :: rest } := by
  have hh' : hostHeld b { s with prog := b :: rest } = false := by cases b <;> exact hh
  rw [step_of_hostReady hs hp hr hh,
    step_of_hostReady (s := { s with prog := b :: rest }) hs rfl hb hh']

/-- A step that takes an access at an address HOST_MAP has nothing at is refused (log 24). -/
theorem step_of_unmapped {s : State} {a : HostAction} {rest : List HostAction}
    (hs : s.sched = []) (hp : s.prog = a :: rest) (hr : resolve s.params a = none) :
    step s = .refused .hostAddressUnmapped := by
  simp [step, nextMove, hs, hostReady, hostTurn, hp, hr, runMove]

/-! ### Accesses at an address of HOST_MAP -/

theorem resolve_hostWriteOf (p : Params) (v : Nat) (x : HostPlace) :
    resolve p (hostWriteOf v x) = some (hostWriteOf v x) := by
  rcases x with r | k
  · cases r <;> rfl
  · rfl

theorem resolve_hostReadOf (p : Params) (x : HostPlace) :
    resolve p (hostReadOf x) = some (hostReadOf x) := by
  cases x <;> rfl

/-- Of the writes at an address only that of CMD is held, by a busy block. -/
theorem hostHeld_hostWriteOf (v : Nat) {x : HostPlace} {s : State}
    (h : x = .reg .cmd → s.phase = .idle) : hostHeld (hostWriteOf v x) s = false := by
  rcases x with r | k
  · cases r
    case cmd => exact busy_eq_false (h rfl)
    all_goals rfl
  · rfl

theorem hostHeld_hostReadOf (x : HostPlace) (s : State) : hostHeld (hostReadOf x) s = false := by
  cases x <;> rfl

/-- Settles O43: no register access is held, and an access at an address resolves to one by name. -/
theorem hostRegisterAccess : Obligations.HostRegisterAccess := by
  intro s a rest hs hp
  have taken : ∀ b, a = b → resolve s.params b = some b → hostHeld b s = false →
      step s = runMove (hostAct b { s with prog := rest }) := by
    rintro b rfl hr hh
    exact step_of_hostReady hs hp hr hh
  refine ⟨fun h => taken _ h rfl rfl, fun h => taken _ h rfl rfl, fun h => taken _ h rfl rfl,
    fun h => taken _ h rfl rfl, fun h => taken _ h rfl rfl, fun v h => taken _ h rfl rfl,
    fun v h hi => ?_, fun v h hb => ?_, fun v h => taken _ h rfl rfl, ?_, ?_, ?_⟩
  · exact (taken _ h rfl rfl).trans (congrArg Host.Outcome.next (if_pos hi))
  · exact (taken _ h rfl rfl).trans (congrArg Host.Outcome.next (if_neg hb))
  · rintro k v x rfl hx hcmd
    have key := step_of_resolved hs hp (by rw [resolve, hx]; rfl) (resolve_hostWriteOf _ v x)
      (hostHeld_hostWriteOf v hcmd)
    rcases x with r | j
    · cases r <;> exact key
    · exact key
  · rintro k x rfl hx
    have key := step_of_resolved hs hp (by rw [resolve, hx]; rfl) (resolve_hostReadOf _ x)
      (hostHeld_hostReadOf x s)
    cases x <;> exact key
  · rintro k v (rfl | rfl) hx <;> exact step_of_unmapped hs hp (by rw [resolve, hx]; rfl)

/-! ### The sector buffer -/

/-- A write of SB while the engine is busy is refused (R165). -/
theorem step_of_sbWriteRefused {s : State} {b : HostAction} {rest : List HostAction}
    (hs : s.sched = []) (hp : s.prog = b :: rest) (hw : sbWriteRefused b s = true) :
    step s = .refused .sbWriteBusy := by
  cases b
  case ldsb x =>
    rw [step_of_hostReady hs hp rfl rfl]
    exact congrArg runMove (if_pos hw)
  case writeSb k v =>
    rw [step_of_hostReady hs hp rfl rfl]
    exact congrArg runMove (if_pos hw)
  all_goals cases hw

/-- A write of SB at an idle block has its effect. -/
theorem step_of_sbWrite {s : State} {b : HostAction} {rest : List HostAction} (hs : s.sched = [])
    (hp : s.prog = b :: rest) (hb : (∃ x, b = .ldsb x) ∨ ∃ k v, b = .writeSb k v)
    (hi : s.phase = .idle) : step s = .next (hostEffect b { s with prog := rest }) := by
  have hw : ¬ busy s = true := by simp [busy_eq_false hi]
  rcases hb with ⟨x, rfl⟩ | ⟨k, v, rfl⟩ <;> rw [step_of_hostReady hs hp rfl rfl] <;>
    exact congrArg runMove (if_neg hw)

theorem recordSbRead_of_busy {s : State} (mask : BitVec 8) (h : s.phase ≠ .idle) :
    recordSbRead mask s = { s.recorded with sbReadBusy := true } := if_neg h

/-- An 8-byte read of SB at an idle block is a model fault unless all bytes are written (R24). -/
theorem recordSbRead_all {s : State} (h : s.phase = .idle) :
    recordSbRead sbAllWritten s = if s.sbWritten = 0xFF#8 then s.recorded
      else { s.recorded with sbReadUnwritten := true } := by
  have e : s.sbWritten &&& sbAllWritten = s.sbWritten := BitVec.and_allOnes
  rw [recordSbRead, if_pos h, e]
  rfl

theorem sbSeen_of_idle {s : State} (h : s.phase = .idle) : sbSeen s = s.sb := if_pos h

/-- STSB at an idle block stores SB at its destination (R24). -/
theorem hostEffect_stsb_hostMem {s : State} (d : Nat) (h : s.phase = .idle) :
    (hostEffect (.stsb d) s).hostMem = memWriteSector s.hostMem d s.sb :=
  congrArg (memWriteSector s.hostMem d) (sbSeen_of_idle h)

/-- The same for the staging area (R125). -/
theorem hostEffect_stsbStage_stage {s : State} (d : Nat) (h : s.phase = .idle) :
    (hostEffect (.stsbStage d) s).stage = memWriteSector s.stage d s.sb :=
  congrArg (memWriteSector s.stage d) (sbSeen_of_idle h)

/-- Settles O44: at an idle block a write of SB has its effect and STSB stores `sbSeen`, which is SB;
at a busy one the write is refused and the read recorded. -/
theorem hostSectorBufferAccess : Obligations.HostSectorBufferAccess := by
  intro s rest hs
  refine ⟨fun x hp hi => ?_, fun x hp hb => ?_, fun d hp hi hm => ?_, fun d hp hi hg => ?_,
    fun d hp hb => ?_⟩
  · exact step_of_sbWrite hs hp (.inl ⟨x, rfl⟩) hi
  · exact step_of_sbWriteRefused hs hp (busy_eq_true hb)
  · refine ⟨_, step_of_hostReady hs hp rfl rfl, rfl, rfl,
      recordSbRead_all (s := { s with prog := rest }) hi, fun b => ?_⟩
    rw [hostEffect_stsb_hostMem (s := { s with prog := rest }) d hi]
    exact memRead_memWriteSector d b s.sb hm
  · refine ⟨_, step_of_hostReady hs hp rfl rfl, rfl, rfl,
      recordSbRead_all (s := { s with prog := rest }) hi, fun b => ?_⟩
    rw [hostEffect_stsbStage_stage (s := { s with prog := rest }) d hi]
    exact memRead_memWriteSector d b s.sb hg
  · rcases hp with hp | hp <;>
      exact ⟨_, step_of_hostReady hs hp rfl rfl, rfl, rfl,
        recordSbRead_of_busy (s := { s with prog := rest }) _ hb⟩

/-! ### One byte of the sector buffer -/

theorem sectorByte_sectorSet (x : Sector) (k j : Fin 8) (v : Byte) :
    sectorByte (sectorSet x k v) j = if j = k then v else sectorByte x j := by
  fin_cases k <;> fin_cases j <;> rfl

/-- The mask of byte k is the word with bit k alone set. -/
theorem sbMask_eq_twoPow (k : Fin 8) : sbMask k = BitVec.twoPow 8 k := rfl

theorem getLsbD_sbMask (k j : Fin 8) : (sbMask k).getLsbD j = decide (j = k) := by
  revert k j; decide

/-- The mark of byte k is the bit its mask selects. -/
theorem and_sbMask_eq_iff (w : BitVec 8) (k : Fin 8) :
    w &&& sbMask k = sbMask k ↔ w.getLsbD k = true := by
  have hne : 0#8 ≠ sbMask k := by revert k; decide
  rw [sbMask_eq_twoPow] at hne ⊢
  rw [BitVec.and_twoPow]
  split <;> simp_all

/-- A read of SB[k] at an idle block is a model fault unless that byte is written (R24). -/
theorem recordSbRead_sbMask {s : State} (k : Fin 8) (h : s.phase = .idle) :
    recordSbRead (sbMask k) s = if s.sbWritten.getLsbD k = true then s.recorded
      else { s.recorded with sbReadUnwritten := true } := by
  simp only [recordSbRead, h, if_true, and_sbMask_eq_iff]

/-- A read of SB[k], whatever PHASE is. -/
theorem step_of_readSb {s : State} {k : Fin 8} {rest : List HostAction} (hs : s.sched = [])
    (hp : s.prog = .readSb k :: rest) :
    step s = .next { s with
      prog := rest, draws := s.draws + drawStride, hostRead := (sectorByte (sbSeen s) k).toNat
      recorded := recordSbRead (sbMask k) s } :=
  step_of_hostReady hs hp rfl rfl

/-- Settles O45: byte k of SB and bit k of the marks are what `sectorSet` and `sbMask` speak of. -/
theorem hostSingleByteAccess : Obligations.HostSingleByteAccess := by
  intro s k rest hs
  refine ⟨fun v hp hi => ?_, fun hp hi => ?_, fun v hp hb => ?_, fun hp hb => ?_⟩
  · refine ⟨sectorSet s.sb k v, s.sbWritten ||| sbMask k,
      step_of_sbWrite hs hp (.inr ⟨k, v, rfl⟩) hi, fun j => sectorByte_sectorSet s.sb k j v,
      fun j => ?_⟩
    rw [BitVec.getLsbD_or, getLsbD_sbMask, Bool.or_comm]
  · refine ⟨s.draws + drawStride, ?_⟩
    rw [step_of_readSb hs hp, recordSbRead_sbMask k hi, sbSeen_of_idle hi]
  · exact step_of_sbWriteRefused hs hp (busy_eq_true hb)
  · refine ⟨s.draws + drawStride, (sectorByte (sbSeen s) k).toNat, ?_⟩
    rw [step_of_readSb hs hp, recordSbRead_of_busy (sbMask k) hb]

end Sys2Proof.Machine
end

section
/-! SUPPORT. The bus from step to step: what a move adds to the trace and which controllers it
touches (10_state.md R48; 20_memory.md R64), and how a program's word reaches the block (R63,
R69). -/

namespace Sys2Proof.Machine

/-! ### The word placed for the next step -/

/-- A table word of eight bits is the command word itself (log 16). -/
theorem decodeTableWord_byte (w : Nat) :
    decodeTableWord 8 w = some (decodeCmd (BitVec.ofNat 8 w)) := rfl

/-- The placed word is the host's next action (log 17). -/
theorem withFetchWord_prog (s : State) (w : Nat) :
    (s.withFetchWord 8 w).prog = .cmd (BitVec.ofNat 8 w) :: s.prog := rfl

/-- Settles O8: the placed word is a CMD write at an idle block with the host to move, which O6
runs. -/
theorem fetchWordIsRunNext : Obligations.FetchWordIsRunNext := by
  intro s w i h
  have hi : decodeCmd (BitVec.ofNat 8 w) = i := Option.some.inj h
  obtain ⟨-, hnamed⟩ := stepRunsTheCommandWritten _ _ _ (withFetchWord_prog s w) rfl
  rw [hnamed s.sched rfl, hi]
  rfl

/-! ### The engine leaves the bus alone -/

/-- The trace and the controllers are in `t` as they are in `s`. -/
structure SameBus (s t : State) : Prop where
  trace : t.trace = s.trace
  ctrls : t.ctrls = s.ctrls

theorem SameBus.trans {s t u : State} (h : SameBus s t) (g : SameBus t u) : SameBus s u :=
  ⟨g.trace.trans h.trace, g.ctrls.trans h.ctrls⟩

theorem advance_sameBus (s : State) : SameBus s (advance s) := by
  rcases advance_cases s with ⟨-, e⟩ | ⟨op, -, e⟩ <;> rw [e] <;> exact ⟨rfl, rfl⟩

theorem countPoll_sameBus (s : State) : SameBus s (countPoll s) := ⟨rfl, rfl⟩

theorem pollResponse_sameBus (v : Byte) (s : State) : SameBus s (pollResponse v s) := by
  rcases pollResponse_cases v s with ⟨-, e⟩ | ⟨-, -, e⟩ | ⟨-, -, e⟩ <;> rw [e]
  · exact (countPoll_sameBus s).trans (advance_sameBus _)
  · exact ⟨rfl, rfl⟩
  · exact ⟨rfl, rfl⟩

/-- The engine's side of a response enters nothing in the trace and touches no controller. -/
theorem engineResponse_sameBus (op : MicroOp) (ans : Option Sector) (s : State) :
    SameBus s (engineResponse op ans s) := by
  rcases engineResponse_cases op ans s with
    ⟨-, e⟩ | ⟨d, a, -, -, e⟩ | ⟨d, a, -, -, e⟩ | ⟨d, -, -, -, e⟩ <;> rw [e]
  · exact ⟨rfl, rfl⟩
  · exact pollResponse_sameBus _ s
  · exact SameBus.trans (t := loadSb d s) ⟨rfl, rfl⟩ (advance_sameBus _)
  · exact advance_sameBus s

/-- The acceptance of a command makes no transaction of its own (R91). -/
theorem execCommand_sameBus {c : Byte} {s t : State} (h : exec (decodeCmd c) s = .next t) :
    SameBus s t := by
  rcases execCommand_cases h with ⟨-, rfl⟩ | ⟨-, ⟨e, rfl⟩ | ⟨-, rfl⟩⟩ <;> exact ⟨rfl, rfl⟩

/-- No host action but a reset reaches the bus. -/
theorem hostEffect_sameBus {b : HostAction} (s : State) (hr : b ≠ .reset) :
    SameBus s (hostEffect b s) := by
  cases b
  case reset => exact absurd rfl hr
  case limit v => simp only [hostEffect]; split <;> exact ⟨rfl, rfl⟩
  case check cleanup =>
    simp only [hostEffect, stopProgram]
    split
    · exact ⟨rfl, rfl⟩
    · split <;> exact ⟨rfl, rfl⟩
  case copyStage d => simp only [hostEffect]; exact ⟨rfl, rfl⟩
  all_goals exact ⟨rfl, rfl⟩

/-! ### One transaction at one port -/

/-- From `s` to `t` the trace grows by at most one entry, and no controller but that of LPORT
changes. -/
structure OneTransaction (s t : State) : Prop where
  trace : t.trace = s.trace ∨ ∃ e, t.trace = s.trace ++ [e]
  others : ∀ q, q ≠ s.lport → portGet t.ctrls q = portGet s.ctrls q

theorem SameBus.oneTransaction {s t : State} (h : SameBus s t) : OneTransaction s t :=
  ⟨.inl h.trace, fun _ _ => by rw [h.ctrls]⟩

theorem OneTransaction.trans_sameBus {s t u : State} (h : OneTransaction s t) (g : SameBus t u) :
    OneTransaction s u :=
  ⟨by rw [g.trace]; exact h.trace, by rw [g.ctrls]; exact h.others⟩

/-- Replacing the controller of LPORT, as an opcode that completes does (R132), makes no
transaction. -/
theorem setController_oneTransaction (c : Controller) (n : Nat) (s : State) :
    OneTransaction s { setController c s with draws := n } :=
  ⟨.inl rfl, fun _ => portGet_setController c⟩

/-- A response enters its transaction and replaces the controller of LPORT (R93). -/
theorem deliver_oneTransaction (req : Request) (ans : Option Sector) (s : State) :
    OneTransaction s (deliver req ans s) :=
  ⟨.inr ⟨_, rfl⟩, fun _ => portGet_setController _⟩

/-- A reset enters the outstanding transaction it drops, if there is one (R162). -/
theorem dropCommand_oneTransaction (s : State) : OneTransaction s (dropCommand s) := by
  unfold dropCommand
  split
  · exact SameBus.oneTransaction ⟨rfl, rfl⟩
  · exact setController_oneTransaction _ _ s
  · refine ⟨?_, fun _ => portGet_setController _⟩
    cases ho : s.out with
    | none => exact .inl (List.append_nil _)
    | some req => exact .inr ⟨⟨req, none⟩, rfl⟩

theorem hostEffect_oneTransaction (b : HostAction) (s : State) :
    OneTransaction s (hostEffect b s) := by
  by_cases hr : b = .reset
  · subst hr
    exact (dropCommand_oneTransaction s).trans_sameBus (u := resetBlock _) ⟨rfl, rfl⟩
  · exact (hostEffect_sameBus s hr).oneTransaction

/-- Every kind of move makes at most one transaction, at LPORT. -/
theorem Stepped.oneTransaction {s t : State} (h : Stepped s t) : OneTransaction s t := by
  cases h with
  | rest h => subst h; exact SameBus.oneTransaction ⟨rfl, rfl⟩
  | command a c rest hp hr hi h =>
    obtain ⟨htrace, hctrls⟩ := execCommand_sameBus h
    exact SameBus.oneTransaction ⟨htrace, hctrls⟩
  | host a b rest hp hr hb hw h =>
    subst h
    obtain ⟨htrace, hothers⟩ := hostEffect_oneTransaction b { s with prog := rest }
    exact ⟨htrace, hothers⟩
  | opcode b hb h =>
    obtain ⟨c, n, rfl, -, -⟩ := execOpcode_cases h
    exact setController_oneTransaction c n s
  | withheld hw h => subst h; exact SameBus.oneTransaction ⟨rfl, rfl⟩
  | issued op hi hop h => subst h; exact SameBus.oneTransaction ⟨rfl, rfl⟩
  | responded req op ans hw ho hop h =>
    subst h
    exact (deliver_oneTransaction req ans s).trans_sameBus (engineResponse_sameBus op ans _)

/-- Settles O40: neither the trace nor the controllers depend on `sched`, and every kind of move
makes at most one transaction, at LPORT. -/
theorem stepMakesOneTransactionAtOnePort : Obligations.StepMakesOneTransactionAtOnePort := by
  intro s t h
  obtain ⟨sc, hm⟩ := step_cases h
  obtain ⟨htrace, hothers⟩ := hm.oneTransaction
  exact ⟨htrace, hothers⟩

end Sys2Proof.Machine
end

section
/-! SUPPORT. The CMD and CTRL1 words (30_encoding.md R72, R81): the two fields of a byte, and each
decoder and the encoder as inverses of one another on the words of its format. -/

namespace Sys2Proof

/-! ### The two fields of a byte -/

@[simp] theorem fieldLow_packFields (hi : BitVec 5) (lo : BitVec 3) :
    fieldLow (packFields hi lo) = lo :=
  BitVec.extractLsb'_append_eq_right

@[simp] theorem fieldHigh_packFields (hi : BitVec 5) (lo : BitVec 3) :
    fieldHigh (packFields hi lo) = hi :=
  BitVec.extractLsb'_append_eq_left

/-- A packed byte as the spec writes it, `(hi << 3) | lo` (R87, R105). -/
theorem packFields_eq_or (hi : BitVec 5) (lo : BitVec 3) :
    packFields hi lo = (hi.setWidth 8 <<< 3) ||| lo.setWidth 8 := by
  rw [packFields, BitVec.append_def, BitVec.shiftLeftZeroExtend_eq, BitVec.setWidth'_eq]

/-! ### Decoding an encoded instruction -/

/-- The word of a well-formed instruction is decoded to it: its low field selects the row, its high
field is the operand, and the two rows with a nonzero ARG are not the words of ERM and ETM (R76). -/
theorem decodeAs_encode {i : Instr} (h : i.wf = true) : decodeAs (formatOf i) (encode i) = i := by
  cases i
  case erm | etm => rfl
  case ermArg a | etmArg a =>
    have ha : a ≠ 0#5 := by simpa [Instr.wf] using h
    simp [formatOf, encode, decodeAs, decodeCmd, ha]
  case ewm | rds | wrs | reservedCode0 | reservedCode6 | reservedCode7 =>
    simp [formatOf, encode, decodeAs, decodeCmd]
  all_goals
    simp [formatOf, encode, decodeAs, decodeCtrl1, opcodeRead, opcodeWritePl, opcodeWriteSer,
      opcodeReadPl, opcodeReadSer, opcodeEraseSectors, opcodeProgSector, opcodeSoftProg]

/-- Settles O2: decoding takes the first byte alone, and that byte decodes to the instruction. -/
theorem decodeOfEncode : Obligations.DecodeOfEncode := by
  intro i rest h
  calc decode (formatOf i) (encode i :: rest)
      = .ok (decodeAs (formatOf i) (encode i), rest) := rfl
    _ = .ok (i, rest) := by rw [decodeAs_encode h]

/-! ### Encoding a decoded word -/

/-- The rows with an ARG field are decoded only where ARG is not 0 (R76). -/
theorem decodeCmd_wf (c : Byte) : (decodeCmd c).wf = true := by
  unfold decodeCmd
  split
  case h_2 | h_3 =>
    split
    · rfl
    · next ha => simpa [Instr.wf] using ha
  all_goals rfl

theorem decodeCtrl1_wf (b : Byte) : (decodeCtrl1 b).wf = true := by
  unfold decodeCtrl1
  split <;> rfl

theorem formatOf_decodeCmd (c : Byte) : formatOf (decodeCmd c) = .cmd := by
  unfold decodeCmd
  (repeat' split) <;> rfl

theorem formatOf_decodeCtrl1 (b : Byte) : formatOf (decodeCtrl1 b) = .ctrl1 := by
  unfold decodeCtrl1
  split <;> rfl

theorem encode_decodeCtrl1 (b : Byte) : encode (decodeCtrl1 b) = b := by
  revert b; decide

/-- The legal command words are the 32 of EWM, ERM, ETM, and five each of RDS and WRS (R77). -/
theorem legalWords_length :
    ((List.range 256).filter fun n => (decodeCmd (BitVec.ofNat 8 n)).legal).length = 44 := by
  decide

/-- Settles O3: each format's round trip on every byte, and the other words counted as the rest of
the 256. -/
theorem decodingIsTotal : Obligations.DecodingIsTotal := by
  refine ⟨fun f b => ?_, legalWords_length, ?_⟩
  · cases f with
    | cmd => exact ⟨decodeCmd_wf b, formatOf_decodeCmd b, Machine.encode_decodeCmd b⟩
    | ctrl1 => exact ⟨decodeCtrl1_wf b, formatOf_decodeCtrl1 b, encode_decodeCtrl1 b⟩
  · have hsplit := List.length_eq_length_filter_add (l := List.range 256)
      fun n => (decodeCmd (BitVec.ofNat 8 n)).legal
    rw [List.length_range, legalWords_length] at hsplit
    omega

/-- Settles O1: each word's fields are those of its row. -/
theorem tableWordsDecode : Obligations.TableWordsDecode := by
  unfold Obligations.TableWordsDecode
  decide

/-! ### The assembler -/

/-- A legal command word assembles to its encoding (R87). -/
theorem assemble_of_legal {i : Instr} (hf : formatOf i = .cmd) (hl : i.legal = true) :
    assemble i = some (encode i) :=
  if_pos ⟨hf, hl⟩

theorem assemble_of_not_legal {i : Instr} (hl : i.legal = false) : assemble i = none :=
  if_neg fun h => by simp [hl] at h

/-- Settles O4: the legal mnemonics assemble to their packed fields; an index above 4 is not
legal. -/
theorem assemblerWords : Obligations.AssemblerWords := by
  refine ⟨fun m => ?_, rfl, rfl, fun i hi => ⟨?_, ?_⟩, fun i hi => ⟨?_, ?_⟩⟩
  · exact (assemble_of_legal rfl rfl).trans (congrArg some (packFields_eq_or m 1))
  · exact (assemble_of_legal (i := .rds i) rfl (decide_eq_true hi)).trans
      (congrArg some (packFields_eq_or i 4))
  · exact (assemble_of_legal (i := .wrs i) rfl (decide_eq_true hi)).trans
      (congrArg some (packFields_eq_or i 5))
  · exact assemble_of_not_legal (decide_eq_false (Nat.not_le.mpr hi))
  · exact assemble_of_not_legal (decide_eq_false (Nat.not_le.mpr hi))

end Sys2Proof
end

section
/-! SUPPORT. The command words the block rejects at acceptance (30_encoding.md R75, R76, R84), and
the transactions its scripts present on the bus (R79, R82; 40_engine_primitives.md R104). -/

namespace Sys2Proof.Machine

/-! ### Words rejected at acceptance -/

/-- What a rejected command leaves: the word `(arg << 3) | code` latched, and RESULT (R91). -/
theorem accept_reject {s : State} (arg : BitVec 5) (code : BitVec 3) (e : ResultCode)
    (hp : s.phase = .idle) :
    accept (packFields arg code) (reject e) s = { s with
      lcmd := (arg.setWidth 8 <<< 3) ||| code.setWidth 8, lport := s.port, pollcnt := 0, plc := 0
      recorded :=
        if s.portWritten then s.recorded else { s.recorded with portUnwritten := true }
      result := e } := by
  rw [packFields_eq_or]
  exact if_pos hp

/-- An index above 4 has no script to start (R75). -/
theorem acceptIndex_of_bad {i : BitVec 5} (script : List MicroOp) (hi : 4 < i.toNat) :
    acceptIndex i script = reject .argError :=
  funext fun _ => if_neg (by simpa [indexLegal] using hi)

/-- Settles O15: with a bad index, acceptance is the rejection with ArgError. -/
theorem badIndexRejected : Obligations.BadIndexRejected := by
  intro i s hp hi
  refine ⟨?_, ?_⟩
  · rw [exec, execRds, acceptIndex_of_bad _ hi]
    exact congrArg Host.Outcome.next (accept_reject i 4 .argError hp)
  · rw [exec, execWrs, acceptIndex_of_bad _ hi]
    exact congrArg Host.Outcome.next (accept_reject i 5 .argError hp)

/-- Settles O16: acceptance of each of the five reserved rows is the rejection with
IllegalCommand. -/
theorem reservedWordsRejected : Obligations.ReservedWordsRejected := by
  intro x s hp
  have rejected (code : BitVec 3) := accept_reject x code .illegalCommand hp
  exact ⟨congrArg Host.Outcome.next (rejected 0), congrArg Host.Outcome.next (rejected 6),
    congrArg Host.Outcome.next (rejected 7), congrArg Host.Outcome.next (rejected 2),
    congrArg Host.Outcome.next (rejected 3)⟩

/-! ### The micro-ops of the scripts -/

/-- The CTRL_0 values the scripts write with one byte (R79). -/
def ctrl0Values : List Byte := [0x00#8, 0xC0#8, 0xE0#8, 0xE1#8, 0xE2#8, 0xE3#8, 0xE4#8]

/-- The CTRL_1 values the scripts write: an opcode alone, or write-SER with a mask (R82). -/
def Ctrl1Value (v : Byte) : Prop :=
  v ∈ [0x00#8, 0x01#8, 0x05#8, 0x06#8, 0x07#8] ∨ ∃ m : BitVec 5, v = (m.setWidth 8 <<< 3) ||| 0x02#8

/-- The micro-ops the scripts of R108, R111, R112, R114 and R117 are made of. -/
inductive ScriptOp (p : Params) : MicroOp → Prop
  | unlock : ScriptOp p (.w1 p.addrPwd p.pwdUnlock)
  | lock : ScriptOp p (.w1 p.addrPwd Config.pwdLock)
  | ctrl0 {v : Byte} (h : v ∈ ctrl0Values) : ScriptOp p (.w1 p.addrCtrl0 v)
  | ctrl1 {v : Byte} (h : Ctrl1Value v) : ScriptOp p (.w1 p.addrCtrl1 v)
  | exit : ScriptOp p (.w2 p.addrCtrl0 p.exitCtrl0 0x00#8)
  | dataWrite : ScriptOp p (.w8sb p.addrRwbuf)
  | dataRead : ScriptOp p (.r8sb p.addrRwbuf)
  | poll : ScriptOp p (.poll p.addrCtrl0)

theorem clr_mem_ctrl0Values : ctrl0Clr ∈ ctrl0Values := by decide

theorem arm_mem_ctrl0Values : ctrl0Arm ∈ ctrl0Values := by decide

theorem submitPlain_mem_ctrl0Values : ctrl0SubmitPlain ∈ ctrl0Values := by decide

/-- A submit of a legal index selects one of the five sectors (R106). -/
theorem ctrl0Submit_mem_ctrl0Values {i : BitVec 5} (h : indexLegal i = true) :
    ctrl0Submit i ∈ ctrl0Values := by
  revert i; decide

/-- The CTRL_1 word of write-SER carries the mask (R105). -/
theorem ctrl1Value_writeSer (m : BitVec 5) : Ctrl1Value (ctrl1 m opcodeWriteSer) :=
  .inr ⟨m, by revert m; decide⟩

theorem ctrl1Value_opcode {op : BitVec 3}
    (h : op ∈ [opcodeRead, opcodeWritePl, opcodeEraseSectors, opcodeProgSector, opcodeSoftProg]) :
    Ctrl1Value (ctrl1 0 op) :=
  .inl (by revert op; decide)

theorem ewmScript_scriptOp (p : Params) (m : BitVec 5) : ∀ op ∈ ewmScript p m, ScriptOp p op := by
  have submit : ScriptOp p (.w1 p.addrCtrl0 ctrl0SubmitPlain) := .ctrl0 submitPlain_mem_ctrl0Values
  simp only [ewmScript, List.forall_mem_cons]
  exact ⟨.unlock, .ctrl0 clr_mem_ctrl0Values, .ctrl0 arm_mem_ctrl0Values,
    .ctrl1 (ctrl1Value_writeSer m), submit, .poll,
    .ctrl1 (ctrl1Value_opcode (by decide)), submit, .poll,
    .ctrl1 (ctrl1Value_opcode (by decide)), submit, .poll, List.forall_mem_nil _⟩

theorem ermScript_scriptOp (p : Params) : ∀ op ∈ ermScript p, ScriptOp p op := by
  simp only [ermScript, List.forall_mem_cons]
  exact ⟨.unlock, .ctrl0 clr_mem_ctrl0Values, .ctrl0 arm_mem_ctrl0Values, List.forall_mem_nil _⟩

theorem etmScript_scriptOp (p : Params) : ∀ op ∈ etmScript p, ScriptOp p op := by
  simp only [etmScript, List.forall_mem_cons]
  exact ⟨.exit, .lock, List.forall_mem_nil _⟩

theorem rdsScript_scriptOp (p : Params) {i : BitVec 5} (h : indexLegal i = true) :
    ∀ op ∈ rdsScript p i, ScriptOp p op := by
  simp only [rdsScript, List.forall_mem_cons]
  exact ⟨.ctrl0 arm_mem_ctrl0Values, .ctrl1 (ctrl1Value_opcode (by decide)),
    .ctrl0 (ctrl0Submit_mem_ctrl0Values h), .poll, .dataRead, .ctrl0 clr_mem_ctrl0Values,
    List.forall_mem_nil _⟩

theorem wrsScript_scriptOp (p : Params) {i : BitVec 5} (h : indexLegal i = true) :
    ∀ op ∈ wrsScript p i, ScriptOp p op := by
  simp only [wrsScript, List.forall_mem_cons]
  exact ⟨.dataWrite, .ctrl0 arm_mem_ctrl0Values, .ctrl1 (ctrl1Value_opcode (by decide)),
    .ctrl0 submitPlain_mem_ctrl0Values, .poll, .ctrl1 (ctrl1Value_opcode (by decide)),
    .ctrl0 (ctrl0Submit_mem_ctrl0Values h), .poll, List.forall_mem_nil _⟩

/-- Whatever the command, its script is made of the listed micro-ops; a rejected word has none. -/
theorem commandScript_scriptOp (p : Params) (i : Instr) :
    ∀ op ∈ commandScript p i, ScriptOp p op := by
  cases i
  case ewm m => exact ewmScript_scriptOp p m
  case erm => exact ermScript_scriptOp p
  case etm => exact etmScript_scriptOp p
  case rds i =>
    by_cases h : indexLegal i = true
    · simpa only [commandScript, h, if_true] using rdsScript_scriptOp p h
    · simp [commandScript, h]
  case wrs i =>
    by_cases h : indexLegal i = true
    · simpa only [commandScript, h, if_true] using wrsScript_scriptOp p h
    · simp [commandScript, h]
  all_goals exact List.forall_mem_nil _

/-- Under the invariant an outstanding transaction is the request of a micro-op of the running
script (R31, R35). -/
theorem Inv.out_request {s : State} {r : Request} (hi : Inv s) (ho : s.out = some r) :
    ∃ op, ScriptOp s.params op ∧ r = request s op := by
  obtain ⟨⟨hwait, hquiet⟩, hrun, -, -⟩ := hi
  have hw : s.phase = .wait := by
    by_contra hne
    simp [hquiet hne] at ho
  obtain ⟨op, hop, hreq⟩ := hwait hw
  obtain ⟨hscript, -⟩ := hrun (by simp [hw])
  have hmem : op ∈ commandScript s.params (decodeCmd s.lcmd) :=
    hscript ▸ List.mem_of_getElem? hop
  exact ⟨op, commandScript_scriptOp _ _ op hmem, Option.some.inj (ho.symm.trans hreq)⟩

/-! ### The values written to CTRL_0 -/

/-- SOS and bit 3 are clear (R79); a nonzero SECT field comes with the request bit (R85), the
power-enable bit with it or in 0xC0 (R160). -/
def Ctrl0Safe (v : Byte) : Prop :=
  v &&& 0x18#8 = 0#8 ∧ (v &&& 0x07#8 = 0#8 ∨ v.getLsbD 5 = true) ∧
    (v.getLsbD 7 = true → v = 0xC0#8 ∨ v.getLsbD 5 = true)

theorem ctrl0Safe_of_mem {v : Byte} (h : v ∈ ctrl0Values) : Ctrl0Safe v := by
  unfold Ctrl0Safe
  revert v; decide

/-- A valid EXIT_CTRL0 is 0x40 or 0x00, which set none of these bits (R11, R85). -/
theorem ctrl0Safe_exitCtrl0 {p : Params} (hv : p.Valid) : Ctrl0Safe p.exitCtrl0 := by
  obtain ⟨-, -, -, -, -, -, he⟩ := hv
  unfold Ctrl0Safe
  generalize p.exitCtrl0 = v at he
  revert v; decide

theorem addrCtrl1_ne_addrCtrl0 (p : Params) : p.addrCtrl1 ≠ p.addrCtrl0 := by
  simp [Params.addrCtrl1]

/-- A write at CTRL_0 is no write at another register, the addresses of valid parameters being
distinct (R49). -/
theorem ScriptOp.ctrl0Safe {p : Params} {op : MicroOp} (h : ScriptOp p op) (hv : p.Valid)
    {s : State} (hd : (request s op).dir = .wr) (ha : (request s op).addr = p.addrCtrl0) {v : Byte}
    (hh : (request s op).wdata.head? = some v) : Ctrl0Safe v := by
  obtain ⟨-, hpwd, -, -, hrwbuf, -, -⟩ := id hv
  cases h with
  | unlock | lock => exact absurd ha hpwd
  | ctrl0 hm =>
    cases hh
    exact ctrl0Safe_of_mem hm
  | ctrl1 hc => exact absurd ha (addrCtrl1_ne_addrCtrl0 p)
  | exit =>
    cases hh
    exact ctrl0Safe_exitCtrl0 hv
  | dataWrite => exact absurd ha hrwbuf
  | dataRead | poll => cases hd

/-- Settles O38: under the invariant OUT is the request of a micro-op of a script, and each of these
is one of the listed transactions. -/
theorem busTrafficIsTheSpecs : Obligations.BusTrafficIsTheSpecs := by
  intro s r hi ho
  obtain ⟨op, hop, rfl⟩ := hi.out_request ho
  refine ⟨by cases op <;> rfl, ?_, fun hv hd ha v hh => hop.ctrl0Safe hv hd ha hh⟩
  cases hop with
  | unlock => exact .inl ⟨rfl, rfl, rfl, .inl rfl⟩
  | lock => exact .inl ⟨rfl, rfl, rfl, .inr rfl⟩
  | ctrl0 hm => exact .inr (.inl ⟨rfl, rfl, rfl, List.mem_map_of_mem (f := ([·])) hm⟩)
  | ctrl1 hc =>
    refine .inr (.inr (.inl ⟨rfl, rfl, rfl, ?_⟩))
    rcases hc with hm | ⟨m, hm⟩
    · exact .inl (List.mem_map_of_mem (f := ([·])) hm)
    · exact .inr ⟨m, congrArg ([·]) hm⟩
  | exit => exact .inr (.inr (.inr (.inl ⟨rfl, rfl, rfl, rfl⟩)))
  | dataWrite => exact .inr (.inr (.inr (.inr (.inl ⟨rfl, rfl, rfl, rfl⟩))))
  | poll => exact .inr (.inr (.inr (.inr (.inr (.inl ⟨rfl, rfl, rfl, rfl⟩)))))
  | dataRead => exact .inr (.inr (.inr (.inr (.inr (.inr ⟨rfl, rfl, rfl, rfl⟩)))))

end Sys2Proof.Machine
end

section
/-! SUPPORT. The engine's two steps in every order of moves, and the response rule of each micro-op
(40_engine_primitives.md R92 to R99). -/

namespace Sys2Proof.Machine

/-! ### The issue step and the response step -/

/-- The request of a micro-op is presented when the environment takes it, whoever `sched` names
(R92). -/
theorem step_of_taken {s u : State} {op : MicroOp} (he : EnvMoves s u)
    (hn : opcodeInProgress u = none) (hp : u.phase = .issue) (hop : u.script[u.sp]? = some op)
    (hk : pick u ≠ some .hold) : step s = .next (bump (issue op u)) := by
  rw [step_of_envMoves he, envTurn_of_none hn, hp]
  simp [issueTurn, hop, hk]

/-- A transaction answered `ok` that the reference controller does not refuse (R93). -/
theorem step_of_answeredOk {s u : State} {op : MicroOp} {req : Request} {d : Sector}
    (he : EnvMoves s u) (hn : opcodeInProgress u = none) (hp : u.phase = .wait)
    (ho : u.out = some req) (hop : u.script[u.sp]? = some op) (ha : envAnswer u req = .ok d)
    (hc : ctrl0Refused u.envMode u.params req (controller u) = false) :
    step s = .next (respond req op (some d) u) := by
  rw [step_of_envMoves he, envTurn_of_none hn, hp]
  simp [waitTurn_of_answer ho hop, ha, respondOk, hc]

/-- A transaction answered `error` aborts the command with TransportError (R149, R150). -/
theorem step_of_answeredError {s u : State} {op : MicroOp} {req : Request} (he : EnvMoves s u)
    (hn : opcodeInProgress u = none) (hp : u.phase = .wait) (ho : u.out = some req)
    (hop : u.script[u.sp]? = some op) (ha : envAnswer u req = .error) :
    step s = .next (raise .transportError (deliver req none u)) := by
  have hturn : waitTurn u = .next (respond req op none u) := by
    simp only [waitTurn_of_answer ho hop, ha]
  rw [step_of_envMoves he, envTurn_of_none hn, hp]
  exact hturn

/-- Only a write can be refused by the reference controller (93 U10). -/
theorem ctrl0Refused_of_read (mode : EnvMode) (p : Params) {req : Request} (c : Controller)
    (h : req.dir = .rd) : ctrl0Refused mode p req c = false := by
  cases mode <;> simp [ctrl0Refused, h]

/-- Settles O18: `issue` with the request and the recorded fault of each of the five micro-ops. -/
theorem issuePresentsTheRequest : Obligations.IssuePresentsTheRequest := by
  intro s u op he hn hp hop hk
  rw [step_of_taken he hn hp hop hk]
  cases op <;> rfl

/-! ### Advance -/

theorem advance_of_end {s : State} (h : s.script[s.sp + 1]? = none) :
    advance s = complete { s with sp := s.sp + 1 } := by simp only [advance, h]

theorem advance_of_next {s : State} {op : MicroOp} (h : s.script[s.sp + 1]? = some op) :
    advance s = moveOn op s := by simp only [advance, h]

/-- Advance sets PHASE whatever it was (R94, R95). -/
theorem advance_setPhase (ph : Phase) (s : State) : advance { s with phase := ph } = advance s := by
  cases h : s.script[s.sp + 1]? with
  | none => exact (advance_of_end (s := { s with phase := ph }) h).trans (advance_of_end h).symm
  | some op => exact (advance_of_next (s := { s with phase := ph }) h).trans (advance_of_next h).symm

/-- Settles O20: the script ends behind SP or has a micro-op there, which is a POLL or not. -/
theorem advanceMovesSpByOne : Obligations.AdvanceMovesSpByOne := by
  refine fun s => ⟨fun hlen => ?_, fun op hop => ?_⟩
  · exact advance_of_end (List.getElem?_eq_none hlen.ge)
  · rw [advance_of_next hop]
    cases op <;> rfl

/-! ### Writes -/

/-- A micro-op whose request is a write advances when it is answered `ok` (R96, R97). -/
theorem engineResponse_of_write {op : MicroOp} {u : State} (h : (request u op).dir = .wr)
    (d : Sector) (s : State) : engineResponse op (some d) s = advance s := by
  cases op
  case r8sb | poll => cases h
  all_goals rfl

/-- The trace shows no data for a write answered `ok` (R37). -/
theorem traceResponse_of_write {req : Request} (h : req.dir = .wr) (d : Sector) :
    traceResponse req (some d) = .ok [] := by
  simp only [traceResponse, h]

/-- Settles O21: the response delivers the transaction and advances. -/
theorem writeAnsweredOkAdvances : Obligations.WriteAnsweredOkAdvances := by
  intro s u op req d he hn hp ho hop hreq hd ha hc
  rw [step_of_answeredOk he hn hp ho hop ha hc, respond, engineResponse_of_write (hreq ▸ hd),
    deliver_eq, traceResponse_of_write hd]
  rfl

/-! ### Reads -/

/-- Settles O22: the issue step, the response with the bytes loaded, the abort. -/
theorem sectorReadLoadsSb : Obligations.SectorReadLoadsSb := by
  intro s u a he hn hop
  refine ⟨fun hp hk => ⟨_, step_of_taken he hn hp hop hk, rfl, rfl, rfl⟩,
    fun d hp ho ha => ?_, fun hp ho ha => step_of_answeredError he hn hp ho hop ha⟩
  exact step_of_answeredOk he hn hp ho hop ha (ctrl0Refused_of_read _ _ _ rfl)

/-- The response rule of POLL with the request bit and the cap written out (R80, R99). -/
theorem pollResponse_eq (v : Byte) (s : State) :
    pollResponse v s =
      if v.getLsbD 5 = false then advance (countPoll s)
      else if (countPoll s).pollLimit ≠ 0 ∧ (countPoll s).plc ≥ (countPoll s).pollLimit then
        raise .timeoutError (countPoll s)
      else pollAgain (countPoll s) := by
  simp only [pollResponse, requestBit, capReached, decide_eq_true_eq, ge_iff_le]

/-- Settles O23: the issue step, the abort, and the rule of R99 after the delivery. -/
theorem pollRule : Obligations.PollRule := by
  intro s u a he hn hop
  refine ⟨fun hp hk => ⟨_, step_of_taken he hn hp hop hk, rfl, rfl, rfl⟩,
    fun hp ho ha => step_of_answeredError he hn hp ho hop ha, fun d hp ho ha => ?_⟩
  rw [step_of_answeredOk he hn hp ho hop ha (ctrl0Refused_of_read _ _ _ rfl), respond]
  exact congrArg Host.Outcome.next (pollResponse_eq d.b0 _)

end Sys2Proof.Machine
end

section
/-! SUPPORT. The busy-wait law: a poll loop under the unconstrained environment, as many polls as
its answers fix (40_engine_primitives.md R99, R100, R103). -/

namespace Sys2Proof.Machine

/-! ### The poll counters -/

/-- Counting up `n + 1` times saturates once (R99). -/
theorem countUp_iterate_succ (p : Params) (n m : Nat) :
    (countUp p)^[n + 1] m = min (m + (n + 1)) (2 ^ p.pollcntW - 1) := by
  induction n with
  | zero => rfl
  | succ n ih =>
    rw [Function.iterate_succ_apply', ih, countUp, countMax]
    omega

/-! ### One poll -/

/-- The engine is about to issue the POLL at `a`, and only the unconstrained environment moves. -/
structure PollsAt (a : Byte) (s : State) : Prop where
  sched : s.sched = []
  prog : s.prog = []
  mode : s.envMode = .free
  phase : s.phase = .issue
  op : s.script[s.sp]? = some (.poll a)

/-- The trace entry of a poll at `a` on port `l` that reads `d`. -/
def pollEntry (l : Nat) (a : Byte) (d : Sector) : TraceEntry :=
  ⟨⟨l, .rd, a, 1, []⟩, some (.ok [d.b0])⟩

/-- `s` after the polls `ds`, with what the environment leaves of its answers, of the controllers
and of the free values. -/
def polled (a : Byte) (ds : List Sector) (rest : List (Option EnvMove)) (out : Option Request)
    (ctrls : List (Nat × Controller)) (draws : Nat) (s : State) : State :=
  { s with
    plc := (countUp s.params)^[ds.length] s.plc
    pollcnt := (countUp s.params)^[ds.length] s.pollcnt
    out := out, trace := s.trace ++ ds.map (pollEntry s.lport a)
    answers := rest, ctrls := ctrls, draws := draws }

theorem polled_polled (a : Byte) (ds es : List Sector) (r r' : List (Option EnvMove))
    (o o' : Option Request) (c c' : List (Nat × Controller)) (n n' : Nat) (s : State) :
    polled a es r' o' c' n' (polled a ds r o c n s) = polled a (ds ++ es) r' o' c' n' s := by
  simp only [polled, ← Function.iterate_add_apply, List.length_append, List.map_append,
    List.append_assoc, Nat.add_comm]

theorem PollsAt.polled {a : Byte} {s : State} (h : PollsAt a s) (ds : List Sector)
    (rest : List (Option EnvMove)) (out : Option Request) (ctrls : List (Nat × Controller))
    (draws : Nat) : PollsAt a (polled a ds rest out ctrls draws s) :=
  ⟨h.sched, h.prog, h.mode, h.phase, h.op⟩

/-- What the rule of R99 makes of the state `t`, which has counted a poll that read `v` and would
poll again. -/
def pollEnd (v : Byte) (t : State) : State :=
  if v.getLsbD 5 = false then advance t
  else if t.pollLimit ≠ 0 ∧ t.plc ≥ t.pollLimit then raise .timeoutError t
  else t

theorem pollEnd_of_clear {v : Byte} {t : State} (hv : v.getLsbD 5 = false) :
    pollEnd v t = advance t := if_pos hv

theorem pollEnd_of_cap {v : Byte} {t : State} (hv : v.getLsbD 5 = true)
    (hc : t.pollLimit ≠ 0 ∧ t.plc ≥ t.pollLimit) : pollEnd v t = raise .timeoutError t :=
  (if_neg (by rw [hv]; decide)).trans (if_pos hc)

theorem pollEnd_of_busy {v : Byte} {t : State} (hv : v.getLsbD 5 = true)
    (hc : t.pollLimit = 0 ∨ t.plc < t.pollLimit) : pollEnd v t = t :=
  (if_neg (by rw [hv]; decide)).trans (if_neg (by omega))

/-- `pollEnd` is the model's poll rule: every end of a poll sets PHASE. -/
theorem pollResponse_eq_pollEnd {v : Byte} {s t : State} (ht : t.phase = .issue)
    (hs : countPoll s = { t with phase := .wait }) : pollResponse v s = pollEnd v t := by
  have hagain : pollAgain { t with phase := .wait } = t := by simp only [pollAgain, ← ht]
  rw [pollResponse_eq, hs, advance_setPhase, hagain]
  rfl

/-- One poll of a loop takes two steps. -/
theorem reaches_poll {a : Byte} {s : State} {d : Sector} {rest : List (Option EnvMove)}
    (h : PollsAt a s) (ha : s.answers = some (.ok d) :: rest) :
    ∃ ctrls draws, (∀ q, q ≠ s.lport → portGet ctrls q = portGet s.ctrls q) ∧
      Reaches 2 s (pollEnd d.b0 (polled a [d] rest none ctrls draws s)) := by
  obtain ⟨ctrls, draws, hothers, r⟩ :=
    transaction_free (n := 0) rfl h.sched h.prog h.mode h.phase h.op ha
  refine ⟨ctrls, draws, hothers, ?_⟩
  rwa [engineResponse,
    pollResponse_eq_pollEnd (t := polled a [d] rest none ctrls draws s) h.phase rfl] at r

/-! ### Many polls -/

/-- Polls that read the request bit set, fewer than the cap if there is one, leave the engine about
to issue the same POLL (R100, R103). -/
theorem reaches_busyPolls {a : Byte} {ds : List Sector} {rest : List (Option EnvMove)} {s : State}
    (h : PollsAt a s) (ha : s.answers = ds.map (fun d => some (.ok d)) ++ rest)
    (hbusy : ∀ d ∈ ds, d.b0.getLsbD 5 = true)
    (hcap : s.pollLimit = 0 ∨ s.plc + ds.length < s.pollLimit) :
    ∃ out ctrls draws, (∀ q, q ≠ s.lport → portGet ctrls q = portGet s.ctrls q) ∧
      Reaches (2 * ds.length) s (polled a ds rest out ctrls draws s) := by
  induction ds generalizing s with
  | nil =>
    refine ⟨s.out, s.ctrls, s.draws, fun _ _ => rfl, ?_⟩
    simp [Reaches, polled, ← show s.answers = rest from ha]
  | cons d ds ih =>
    rw [List.forall_mem_cons] at hbusy
    rw [List.length_cons] at hcap
    obtain ⟨ctrls, draws, hothers, r⟩ := reaches_poll h ha
    have hcap' : s.pollLimit = 0 ∨ countUp s.params s.plc + ds.length < s.pollLimit := by
      have hup : countUp s.params s.plc ≤ s.plc + 1 := Nat.min_le_left _ _
      omega
    have hgoes : s.pollLimit = 0 ∨ countUp s.params s.plc < s.pollLimit := by omega
    rw [pollEnd_of_busy (t := polled a [d] _ none ctrls draws s) hbusy.1 hgoes] at r
    obtain ⟨out', ctrls', draws', hothers', r'⟩ :=
      ih (h.polled [d] _ none ctrls draws) rfl hbusy.2 hcap'
    rw [polled_polled] at r'
    refine ⟨out', ctrls', draws', fun q hq => (hothers' q hq).trans (hothers q hq), ?_⟩
    rw [List.length_cons, Nat.mul_succ, Nat.add_comm]
    exact reaches_trans r r'

/-- The same with one more poll, whatever it reads. -/
theorem reaches_lastPoll {a : Byte} {ds : List Sector} {d : Sector}
    {rest : List (Option EnvMove)} {s : State} (h : PollsAt a s)
    (ha : s.answers = ds.map (fun d => some (.ok d)) ++ some (.ok d) :: rest)
    (hbusy : ∀ d ∈ ds, d.b0.getLsbD 5 = true)
    (hcap : s.pollLimit = 0 ∨ s.plc + ds.length < s.pollLimit) :
    ∃ ctrls draws, (∀ q, q ≠ s.lport → portGet ctrls q = portGet s.ctrls q) ∧
      Reaches (2 * (ds.length + 1)) s
        (pollEnd d.b0 (polled a (ds ++ [d]) rest none ctrls draws s)) := by
  obtain ⟨out, ctrls, draws, hothers, r⟩ := reaches_busyPolls h ha hbusy hcap
  obtain ⟨ctrls', draws', hothers', r'⟩ := reaches_poll (h.polled _ _ out ctrls draws) rfl
  rw [polled_polled] at r'
  exact ⟨ctrls', draws', fun q hq => (hothers' q hq).trans (hothers q hq), reaches_trans r r'⟩

/-- The counters after at least one poll. -/
theorem polled_snoc (a : Byte) (ds : List Sector) (d : Sector) (rest : List (Option EnvMove))
    (out : Option Request) (ctrls : List (Nat × Controller)) (draws : Nat) (s : State) :
    polled a (ds ++ [d]) rest out ctrls draws s = { s with
      plc := min (s.plc + (ds.length + 1)) (2 ^ s.params.pollcntW - 1)
      pollcnt := min (s.pollcnt + (ds.length + 1)) (2 ^ s.params.pollcntW - 1)
      out := out, trace := s.trace ++ (ds ++ [d]).map (pollEntry s.lport a)
      answers := rest, ctrls := ctrls, draws := draws } := by
  simp only [polled, List.length_append, List.length_singleton, countUp_iterate_succ]

/-- Settles O25: the busy polls, then a clear one, or the one that reaches the cap as the last of
them, or none. -/
theorem busyWaitLaw : Obligations.BusyWaitLaw := by
  intro s a ds rest hs hp hm hi hplc hw hop hbusy
  have h : PollsAt a s := ⟨hs, hp, hm, hi, hop⟩
  refine ⟨fun clear hclear hcap ha => ?_, fun hpos hcap ha => ?_, fun hcap ha => ?_⟩
  · obtain ⟨ctrls, draws, hothers, r⟩ := reaches_lastPoll h ha hbusy (by omega)
    refine ⟨ctrls, draws, hothers, ?_⟩
    rwa [pollEnd_of_clear hclear, polled_snoc, hplc, Nat.zero_add] at r
  · have hne : ds ≠ [] := List.ne_nil_of_length_pos (by omega)
    obtain ⟨init, last, rfl⟩ := (List.eq_nil_or_concat' ds).resolve_left hne
    rw [List.length_append, List.length_singleton] at hcap ⊢
    simp only [List.forall_mem_append, List.forall_mem_singleton] at hbusy
    rw [List.map_append, List.append_assoc] at ha
    obtain ⟨ctrls, draws, hothers, r⟩ := reaches_lastPoll h ha hbusy.1 (by omega)
    have hlimit : (polled a (init ++ [last]) rest none ctrls draws s).plc = s.pollLimit := by
      rw [polled_snoc]
      change min _ _ = _
      omega
    rw [pollEnd_of_cap hbusy.2 ⟨by change s.pollLimit ≠ 0; omega, hlimit.ge⟩] at r
    exact ⟨_, r, rfl, rfl, hlimit, rfl, rfl, rfl, hothers, rfl⟩
  · obtain ⟨out, ctrls, draws, hothers, r⟩ := reaches_busyPolls h ha hbusy (.inl hcap)
    exact ⟨_, r, hi, rfl, rfl, rfl, hothers, rfl⟩

end Sys2Proof.Machine
end

section
/-! SUPPORT. The frame of acceptance (40_engine_primitives.md R91) and the absence of model faults
under the invariant (R102; 10_state.md R35). -/

namespace Sys2Proof.Machine

/-! ### Acceptance -/

/-- Settles O17: a command word is ignored, rejected or started, each of which touches none of these
fields. -/
theorem acceptanceFrame : Obligations.AcceptanceFrame := by
  intro c s t h
  rcases execCommand_cases h with ⟨-, rfl⟩ | ⟨-, ⟨e, rfl⟩ | ⟨-, rfl⟩⟩ <;>
    exact ⟨rfl, rfl, rfl, rfl, rfl, rfl, rfl, fun _ => rfl, rfl, rfl, rfl, rfl, rfl, rfl, rfl, rfl,
      rfl, rfl, rfl, rfl⟩

/-! ### Faults -/

/-- No instruction faults: a command is accepted or ignored, an opcode completes or is refused. -/
theorem exec_ne_fault (i : Instr) (s : State) (f : Fault) : exec i s ≠ .fault f := by
  cases i <;> nofun

theorem hostAct_ne_fault (a : HostAction) (s : State) (f : Fault) :
    runMove (hostAct a s) ≠ .fault f := by
  unfold hostAct
  split
  · exact exec_ne_fault _ _ f
  · split <;> nofun

/-- The host's turn never faults: both model faults are the environment's (log 26). -/
theorem hostTurn_ne_fault (s : State) (f : Fault) : runMove (hostTurn s) ≠ .fault f := by
  unfold hostTurn
  split
  · nofun
  · split
    · nofun
    · split
      · nofun
      · exact hostAct_ne_fault _ _ f

theorem issueTurn_ne_fault {s : State} {op : MicroOp} (hop : s.script[s.sp]? = some op)
    (f : Fault) : issueTurn s ≠ .fault f := by
  simp only [issueTurn, hop]
  split <;> nofun

theorem respondOk_ne_fault (req : Request) (op : MicroOp) (d : Sector) (s : State) (f : Fault) :
    respondOk req op d s ≠ .fault f := by
  unfold respondOk
  split <;> nofun

theorem waitTurn_ne_fault {s : State} {op : MicroOp} {req : Request} (ho : s.out = some req)
    (hop : s.script[s.sp]? = some op) (f : Fault) : waitTurn s ≠ .fault f := by
  rw [waitTurn_of_answer ho hop]
  split
  · nofun
  · exact respondOk_ne_fault _ _ _ s f
  · nofun

/-- Under the invariant SP is in range in ISSUE and in WAIT, and in WAIT a request is outstanding
(R35, R102). -/
theorem envTurn_ne_fault {s : State} (hi : Inv s) (f : Fault) :
    runMove (envTurn s) ≠ .fault f := by
  obtain ⟨⟨hwait, -⟩, hrun, -, -⟩ := hi
  unfold envTurn
  split
  · exact exec_ne_fault _ s f
  · split
    · nofun
    · next hp =>
      obtain ⟨-, hsp⟩ := hrun (by simp [hp])
      exact issueTurn_ne_fault (List.getElem?_eq_getElem hsp) f
    · next hp =>
      obtain ⟨op, hop, ho⟩ := hwait hp
      exact waitTurn_ne_fault ho hop f

/-- Settles O37: the invariant does not speak of `sched`, and neither agent's turn faults. -/
theorem invStepNeverFaults : Obligations.InvStepNeverFaults := by
  intro s f hi
  have henv : ∀ sc, runMove (envTurn { s with sched := sc }) ≠ .fault f :=
    fun sc => envTurn_ne_fault (s := { s with sched := sc }) hi f
  unfold step nextMove
  split
  · exact hostTurn_ne_fault _ f
  · exact henv _
  · split
    · exact hostTurn_ne_fault s f
    · exact envTurn_ne_fault hi f

end Sys2Proof.Machine
end

section
/-! SUPPORT. The codec of CTRL_1 and CTRL_0 (40_engine_primitives.md R105, R106). -/

namespace Sys2Proof.Machine

/-- A CTRL_1 word is its two fields packed (R105). -/
theorem ctrl1_eq_packFields (m : BitVec 5) (op : BitVec 3) : ctrl1 m op = packFields m op := by
  revert m op; decide

/-- The masks of the two fields share no bit. -/
theorem ctrl1_fields_disjoint (x y : Byte) : (x &&& 0xF8#8) &&& (y &&& 0x07#8) = 0#8 := by
  have hmasks : 0xF8#8 &&& 0x07#8 = 0#8 := by decide
  rw [BitVec.and_comm y, ← BitVec.and_assoc, BitVec.and_assoc x, hmasks, BitVec.and_zero,
    BitVec.zero_and]

/-- The shifted mask lies in bits 7:3. -/
theorem shifted_and_high (m : BitVec 5) :
    (m.setWidth 8 <<< 3) &&& 0xF8#8 = m.setWidth 8 <<< 3 := by
  revert m; decide

/-- A submit of a sector index selects it and sets the request bit, SOS and bit 3 clear (R106). -/
theorem ctrl0Submit_fields {i : BitVec 5} (h : i.toNat ≤ 4) :
    (ctrl0Submit i).toNat = 0xE0 + i.toNat ∧ sectorSelect (ctrl0Submit i) = i.toNat ∧
      requestBit (ctrl0Submit i) = true ∧ ctrl0Submit i &&& 0x18#8 = 0#8 := by
  revert i; decide

/-- Settles O5: CTRL_1 is `packFields`, which both fields undo, and CTRL_0's submit by its fields. -/
theorem codecFields : Obligations.CodecFields := by
  refine ⟨fun m op => ⟨rfl, ctrl1_fields_disjoint _ _, shifted_and_high m, ?_, ?_⟩,
    fun i => rfl, fun i hi => ctrl0Submit_fields hi⟩
  · rw [ctrl1_eq_packFields, fieldHigh_packFields]
  · rw [ctrl1_eq_packFields, fieldLow_packFields]

end Sys2Proof.Machine
end

section
/-! SUPPORT. A command and its script under the unconstrained environment, every transaction answered
`ok` and every first poll reading bit 5 clear (40_engine_primitives.md R91 to R99). -/

namespace Sys2Proof.Machine

/-! ### What a script answered `ok` does -/

/-- SB after a micro-op answered with `d` (R98). -/
def sbAfter (od : MicroOp × Sector) (x : Sector) : Sector :=
  match od.1 with
  | .r8sb _ => od.2
  | .w1 _ _ => x
  | .w2 _ _ _ => x
  | .w8sb _ => x
  | .poll _ => x

/-- The transaction of a micro-op presented at `s` and answered with `d` (R92, R93). -/
def okEntry (s : State) (od : MicroOp × Sector) : TraceEntry :=
  ⟨request s od.1, some (traceResponse (request s od.1) (some od.2))⟩

/-- The transactions of micro-ops presented from `s` on, each with its answer. -/
def okTrace : State → List (MicroOp × Sector) → List TraceEntry
  | _, [] => []
  | s, od :: ods => okEntry s od :: okTrace { s with sb := sbAfter od s.sb } ods

/-- The transactions depend on the latched port and on SB alone. -/
theorem okTrace_congr {s t : State} (hl : t.lport = s.lport) (hb : t.sb = s.sb)
    (ods : List (MicroOp × Sector)) : okTrace t ods = okTrace s ods := by
  induction ods generalizing s t with
  | nil => rfl
  | cons od ods ih =>
    have hentry : okEntry t od = okEntry s od := by simp only [okEntry, request_congr hl hb]
    rw [okTrace, okTrace, hentry, hb]
    exact congrArg _ (ih (by exact hl) rfl)

/-- The answer lets the micro-op complete: a poll reads the request bit clear (R99). -/
def Completes (od : MicroOp × Sector) : Prop := od.1.isPoll = true → od.2.b0.getLsbD 5 = false

/-- From `s` to `t` the micro-ops, each with its answer, have been performed. -/
structure Performed (ods : List (MicroOp × Sector)) (s t : State) : Prop where
  params : t.params = s.params
  lport : t.lport = s.lport
  sb : t.sb = ods.foldl (fun x od => sbAfter od x) s.sb
  pollcnt : t.pollcnt = (countUp s.params)^[ods.countP (·.1.isPoll)] s.pollcnt
  trace : t.trace = s.trace ++ okTrace s ods

theorem Performed.nil (s : State) : Performed [] s s :=
  ⟨rfl, rfl, rfl, rfl, (List.append_nil _).symm⟩

theorem Performed.cons {od : MicroOp × Sector} {ods : List (MicroOp × Sector)} {s t u : State}
    (h : Performed [od] s t) (g : Performed ods t u) : Performed (od :: ods) s u := by
  refine ⟨g.params.trans h.params, g.lport.trans h.lport, ?_, ?_, ?_⟩
  · rw [g.sb, h.sb]
    rfl
  · have hsplit : (od :: ods).countP (·.1.isPoll) =
        [od].countP (·.1.isPoll) + ods.countP (·.1.isPoll) := List.countP_append (l₁ := [od])
    rw [g.pollcnt, h.pollcnt, h.params, ← Function.iterate_add_apply, hsplit, Nat.add_comm]
  · have hrest : okTrace t ods = okTrace { s with sb := sbAfter od s.sb } ods :=
      okTrace_congr (s := { s with sb := sbAfter od s.sb }) h.lport h.sb ods
    rw [g.trace, h.trace, hrest, List.append_assoc]
    rfl

/-! ### The engine in front of a script -/

/-- Only the unconstrained environment moves, and `ops` are the micro-ops still to be issued; with
none left the command has completed (R95). -/
structure ScriptLeft (ops : List MicroOp) (s : State) : Prop where
  sched : s.sched = []
  prog : s.prog = []
  mode : s.envMode = .free
  left : s.script.drop s.sp = ops
  ended : ops = [] → s.phase = .idle ∧ s.result = .ok
  issuing : ops ≠ [] → s.phase = .issue

/-- The micro-op of SP is the first of those left. -/
theorem getElem?_of_drop {α : Type} {l : List α} {n : Nat} {a : α} {as : List α}
    (h : l.drop n = a :: as) : l[n]? = some a := by
  rw [← List.head?_drop, h, List.head?_cons]

theorem scriptLeft_start {script : List MicroOp} {s : State} (hs : s.sched = []) (hp : s.prog = [])
    (hm : s.envMode = .free) (hne : script ≠ []) : ScriptLeft script (start script s) :=
  ⟨hs, hp, hm, rfl, fun h => absurd h hne, fun _ => rfl⟩

/-- A micro-op that completes leaves those after it (R94, R95). -/
theorem scriptLeft_advance {ops : List MicroOp} {s : State} (hs : s.sched = []) (hp : s.prog = [])
    (hm : s.envMode = .free) (hops : s.script.drop (s.sp + 1) = ops) :
    ScriptLeft ops (advance s) := by
  cases ops with
  | nil =>
    rw [advance_of_end (List.getElem?_eq_none (List.drop_eq_nil_iff.mp hops))]
    exact ⟨hs, hp, hm, hops, fun _ => ⟨rfl, rfl⟩, absurd rfl⟩
  | cons op ops =>
    rw [advance_of_next (getElem?_of_drop hops)]
    exact ⟨hs, hp, hm, hops, nofun, fun _ => rfl⟩

/-- The engine's side of a micro-op that completes: SB, POLLCNT and what goes with them, then the
advance (R96 to R99). -/
theorem engineResponse_of_completes {op : MicroOp} {d : Sector} (h : Completes (op, d))
    (s : State) : ∃ written plc, engineResponse op (some d) s = advance { s with
      sb := sbAfter (op, d) s.sb, sbWritten := written, plc := plc
      pollcnt := (countUp s.params)^[[(op, d)].countP (·.1.isPoll)] s.pollcnt } := by
  cases op with
  | w1 | w2 | w8sb => exact ⟨s.sbWritten, s.plc, rfl⟩
  | r8sb => exact ⟨sbAllWritten, s.plc, rfl⟩
  | poll =>
    refine ⟨s.sbWritten, countUp s.params s.plc, ?_⟩
    exact (pollResponse_eq d.b0 s).trans (if_pos (h rfl))

theorem advance_answers (s : State) : (advance s).answers = s.answers := by
  rcases advance_cases s with ⟨-, e⟩ | ⟨op, -, e⟩ <;> rw [e]

theorem Performed.advance {ods : List (MicroOp × Sector)} {s t : State} (h : Performed ods s t) :
    Performed ods s (advance t) := by
  obtain ⟨hparams, hlport, hsb, hpollcnt, htrace⟩ := h
  rcases advance_cases t with ⟨-, e⟩ | ⟨op, -, e⟩ <;> rw [e] <;>
    exact ⟨hparams, hlport, hsb, hpollcnt, htrace⟩

/-- One micro-op takes two steps. -/
theorem ScriptLeft.transaction {op : MicroOp} {ops : List MicroOp} {d : Sector}
    {rest : List (Option EnvMove)} {s : State} (h : ScriptLeft (op :: ops) s)
    (ha : s.answers = some (.ok d) :: rest) (hc : Completes (op, d)) :
    ∃ t, Reaches 2 s t ∧ ScriptLeft ops t ∧ t.answers = rest ∧ Performed [(op, d)] s t := by
  obtain ⟨ctrls, draws, -, r⟩ := transaction_free (n := 0) rfl h.sched h.prog h.mode
    (h.issuing nofun) (getElem?_of_drop h.left) ha
  have hops : s.script.drop (s.sp + 1) = ops := by rw [← List.tail_drop, h.left, List.tail_cons]
  obtain ⟨written, plc, e⟩ := engineResponse_of_completes hc _
  rw [e] at r
  exact ⟨_, r, scriptLeft_advance h.sched h.prog h.mode hops, advance_answers _,
    Performed.advance ⟨rfl, rfl, rfl, rfl, rfl⟩⟩

/-- The micro-ops left, each answered so that it completes, run to the end of the command. -/
theorem ScriptLeft.run {ops : List MicroOp} {ds : List Sector} {s : State} (h : ScriptLeft ops s)
    (ha : s.answers = ds.map fun d => some (.ok d)) (hlen : ops.length = ds.length)
    (hc : ∀ od ∈ ops.zip ds, Completes od) :
    ∃ t, Reaches (2 * ops.length) s t ∧ t.phase = .idle ∧ t.result = .ok ∧
      Performed (ops.zip ds) s t := by
  induction ops generalizing ds s with
  | nil =>
    obtain ⟨hphase, hresult⟩ := h.ended rfl
    exact ⟨s, rfl, hphase, hresult, .nil s⟩
  | cons op ops ih =>
    obtain _ | ⟨d, ds⟩ := ds
    · cases hlen
    rw [List.zip_cons_cons, List.forall_mem_cons] at hc
    obtain ⟨u, r, hu, hau, hfirst⟩ := h.transaction ha hc.1
    obtain ⟨t, r', hphase, hresult, hrest⟩ := ih hu hau (Nat.succ.inj hlen) hc.2
    refine ⟨t, ?_, hphase, hresult, hfirst.cons hrest⟩
    rw [List.length_cons, Nat.mul_succ, Nat.add_comm]
    exact reaches_trans r r'

/-! ### A whole command: its acceptance, then its script -/

/-- What acceptance leaves of a command that starts its script (R91). -/
theorem accept_start {s : State} (c : Byte) (script : List MicroOp) (hp : s.phase = .idle) :
    accept c (start script) s = { s with
      lcmd := c, lport := s.port, pollcnt := 0, plc := 0
      recorded :=
        if s.portWritten then s.recorded else { s.recorded with portUnwritten := true }
      script := script, sp := 0, phase := .issue } :=
  if_pos hp

/-- A command that an idle block accepts as the host's only action, every micro-op of its script
answered so that it completes, runs to its end: the acceptance, then two steps for each micro-op. -/
theorem command_run {s : State} {c : Byte} {script : List MicroOp} {ds : List Sector}
    (hs : s.sched = []) (hm : s.envMode = .free) (hi : s.phase = .idle) (hp : s.prog = [.cmd c])
    (ha : s.answers = ds.map fun d => some (.ok d))
    (hx : exec (decodeCmd c) { s with prog := [], cmd := c } =
      .next (accept c (start script) { s with prog := [], cmd := c }))
    (hne : script ≠ []) (hlen : script.length = ds.length)
    (hc : ∀ od ∈ script.zip ds, Completes od) :
    ∃ t, Reaches (2 * script.length + 1) s t ∧ t.phase = .idle ∧ t.result = .ok ∧
      Performed (script.zip ds) (latch c s) t := by
  obtain ⟨hstep, -⟩ := stepRunsTheCommandWritten s c [] hp hi
  have haccept : step s = .next (start script (latch c { s with prog := [], cmd := c })) :=
    (hstep hs).trans (hx.trans (congrArg Host.Outcome.next (if_pos hi)))
  have hleft := scriptLeft_start (s := latch c { s with prog := [], cmd := c }) hs rfl hm hne
  obtain ⟨t, r, hphase, hresult, hparams, hlport, hsb, hpollcnt, htrace⟩ := hleft.run ha hlen hc
  refine ⟨t, reaches_succ haccept r, hphase, hresult, hparams, hlport, hsb, hpollcnt, ?_⟩
  rw [htrace, okTrace_congr (s := latch c s)] <;> rfl

end Sys2Proof.Machine
end

section
/-! SUPPORT. The mode commands EnterWriteMode, EnterReadMode and ExitTestMode (41_mode_commands.md
R108, R111, R112): their acceptance, and their runs under the unconstrained environment. -/

namespace Sys2Proof.Machine

/-! ### Acceptance -/

/-- The CTRL_1 word of write-SER, as the spec writes it (R105). -/
theorem ctrl1_writeSer (m : BitVec 5) :
    ctrl1 m opcodeWriteSer = (m.setWidth 8 <<< 3) ||| 0x02#8 := by
  rw [ctrl1, shifted_and_high]
  rfl

/-- The script of EnterWriteMode with its CTRL_0 and CTRL_1 words written out (R108). -/
theorem ewmScript_eq (p : Params) (m : BitVec 5) : ewmScript p m =
    [ .w1 p.addrPwd p.pwdUnlock
    , .w1 p.addrCtrl0 0x00#8
    , .w1 p.addrCtrl0 0xC0#8
    , .w1 p.addrCtrl1 ((m.setWidth 8 <<< 3) ||| 0x02#8)
    , .w1 p.addrCtrl0 0xE0#8
    , .poll p.addrCtrl0
    , .w1 p.addrCtrl1 0x07#8
    , .w1 p.addrCtrl0 0xE0#8
    , .poll p.addrCtrl0
    , .w1 p.addrCtrl1 0x05#8
    , .w1 p.addrCtrl0 0xE0#8
    , .poll p.addrCtrl0 ] := by
  rw [ewmScript, ctrl1_writeSer]
  rfl

/-- Settles O11: the acceptance of the word `(m << 3) | 1` starts the script of R108. -/
theorem enterWriteModeStarts : Obligations.EnterWriteModeStarts := by
  intro m s hp
  rw [exec, execEwm, ewmScript_eq, encode, packFields_eq_or]
  exact congrArg Host.Outcome.next (accept_start _ _ hp)

/-- Settles O12: the acceptance of each word starts its script. -/
theorem readModeAndExitStart : Obligations.ReadModeAndExitStart :=
  fun _ hp => ⟨congrArg Host.Outcome.next (accept_start _ _ hp),
    congrArg Host.Outcome.next (accept_start _ _ hp)⟩

/-! ### Whole runs -/

/-- The word of EnterWriteMode decodes to it (R87). -/
theorem decodeCmd_ewm (m : BitVec 5) :
    decodeCmd ((m.setWidth 8 <<< 3) ||| 0x01#8) = .ewm m := by
  have h : decodeCmd (packFields m 1) = .ewm m := decodeAs_encode (i := .ewm m) rfl
  rwa [packFields_eq_or] at h

/-- Settles O26: the twelve micro-ops of R108, the three polls among them each reading bit 5
clear. -/
theorem enterWriteModeRuns : Obligations.EnterWriteModeRuns := by
  intro m s c d0 d1 d2 d3 d4 d5 d6 d7 d8 d9 d10 d11 hc hs hm hi hp ha h5 h8 h11
  have hx : exec (decodeCmd c) { s with prog := [], cmd := c } =
      .next (accept c (start (ewmScript s.params m)) { s with prog := [], cmd := c }) := by
    rw [hc, decodeCmd_ewm, exec, execEwm, encode, packFields_eq_or]
    rfl
  rw [ewmScript_eq] at hx
  obtain ⟨t, r, hphase, hresult, -, -, hsb, hpollcnt, htrace⟩ :=
    command_run hs hm hi hp ha hx nofun rfl
      (by simpa [Completes, MicroOp.isPoll] using ⟨h5, h8, h11⟩)
  exact ⟨t, r, hphase, hresult, hpollcnt.trans (countUp_iterate_succ s.params 2 0), hsb, htrace⟩

/-- Settles O27: the three micro-ops of R111 and the two of R112, no poll among them. -/
theorem readModeAndExitRun : Obligations.ReadModeAndExitRun := by
  intro s d0 d1 d2 hs hm hi
  refine ⟨fun hp ha => ?_, fun hp ha => ?_⟩
  · obtain ⟨t, r, hphase, hresult, -, -, hsb, hpollcnt, htrace⟩ :=
      command_run (script := ermScript s.params) hs hm hi hp ha rfl nofun rfl
        (by simp [ermScript, Completes, MicroOp.isPoll])
    exact ⟨t, r, hphase, hresult, hpollcnt, hsb, htrace⟩
  · obtain ⟨t, r, hphase, hresult, -, -, hsb, hpollcnt, htrace⟩ :=
      command_run (script := etmScript s.params) hs hm hi hp ha rfl nofun rfl
        (by simp [etmScript, Completes, MicroOp.isPoll])
    exact ⟨t, r, hphase, hresult, hpollcnt, hsb, htrace⟩

end Sys2Proof.Machine
end

section
/-! SUPPORT. The sector commands ReadSector and WriteSector (42_sector_commands.md R114, R117): their
acceptance with an index in 0..4, and their runs under the unconstrained environment. -/

namespace Sys2Proof.Machine

/-! ### Acceptance -/

/-- A legal index lies in bits 2:0, so the submit need not mask it (R106). -/
theorem ctrl0Submit_of_legal {i : BitVec 5} (hi : i.toNat ≤ 4) :
    ctrl0Submit i = 0xE0#8 ||| i.setWidth 8 := by
  revert i; decide

/-- The script of ReadSector with its CTRL_0 and CTRL_1 words written out (R114). -/
theorem rdsScript_eq (p : Params) {i : BitVec 5} (hi : i.toNat ≤ 4) : rdsScript p i =
    [ .w1 p.addrCtrl0 0xC0#8
    , .w1 p.addrCtrl1 0x00#8
    , .w1 p.addrCtrl0 (0xE0#8 ||| i.setWidth 8)
    , .poll p.addrCtrl0
    , .r8sb p.addrRwbuf
    , .w1 p.addrCtrl0 0x00#8 ] := by
  rw [rdsScript, ctrl0Submit_of_legal hi]
  rfl

/-- The script of WriteSector with its CTRL_0 and CTRL_1 words written out (R117). -/
theorem wrsScript_eq (p : Params) {i : BitVec 5} (hi : i.toNat ≤ 4) : wrsScript p i =
    [ .w8sb p.addrRwbuf
    , .w1 p.addrCtrl0 0xC0#8
    , .w1 p.addrCtrl1 0x01#8
    , .w1 p.addrCtrl0 0xE0#8
    , .poll p.addrCtrl0
    , .w1 p.addrCtrl1 0x06#8
    , .w1 p.addrCtrl0 (0xE0#8 ||| i.setWidth 8)
    , .poll p.addrCtrl0 ] := by
  rw [wrsScript, ctrl0Submit_of_legal hi]
  rfl

/-- An index in 0..4 starts its script (R75, R91). -/
theorem acceptIndex_of_legal {i : BitVec 5} (script : List MicroOp) (hi : i.toNat ≤ 4) :
    acceptIndex i script = start script :=
  funext fun _ => if_pos (decide_eq_true hi)

/-- RDS with an index in 0..4 is the acceptance of its word with its script (R114). -/
theorem exec_rds_of_legal {i : BitVec 5} (hi : i.toNat ≤ 4) (s : State) :
    exec (.rds i) s =
      .next (accept ((i.setWidth 8 <<< 3) ||| 0x04#8) (start (rdsScript s.params i)) s) := by
  rw [exec, execRds, acceptIndex_of_legal _ hi, encode, packFields_eq_or]
  rfl

/-- WRS with an index in 0..4 is the acceptance of its word with its script (R117). -/
theorem exec_wrs_of_legal {i : BitVec 5} (hi : i.toNat ≤ 4) (s : State) :
    exec (.wrs i) s =
      .next (accept ((i.setWidth 8 <<< 3) ||| 0x05#8) (start (wrsScript s.params i)) s) := by
  rw [exec, execWrs, acceptIndex_of_legal _ hi, encode, packFields_eq_or]
  rfl

/-- Settles O13: the acceptance of the word `(i << 3) | 4` starts the script of R114. -/
theorem readSectorStarts : Obligations.ReadSectorStarts := by
  intro i s hp hi
  rw [exec_rds_of_legal hi, rdsScript_eq _ hi]
  exact congrArg Host.Outcome.next (accept_start _ _ hp)

/-- Settles O14: the acceptance of the word `(i << 3) | 5` starts the script of R117. -/
theorem writeSectorStarts : Obligations.WriteSectorStarts := by
  intro i s hp hi
  rw [exec_wrs_of_legal hi, wrsScript_eq _ hi]
  exact congrArg Host.Outcome.next (accept_start _ _ hp)

/-! ### Whole runs -/

/-- The word of ReadSector decodes to it (R87). -/
theorem decodeCmd_rds (i : BitVec 5) :
    decodeCmd ((i.setWidth 8 <<< 3) ||| 0x04#8) = .rds i := by
  have h : decodeCmd (packFields i 4) = .rds i := decodeAs_encode (i := .rds i) rfl
  rwa [packFields_eq_or] at h

/-- The word of WriteSector decodes to it (R87). -/
theorem decodeCmd_wrs (i : BitVec 5) :
    decodeCmd ((i.setWidth 8 <<< 3) ||| 0x05#8) = .wrs i := by
  have h : decodeCmd (packFields i 5) = .wrs i := decodeAs_encode (i := .wrs i) rfl
  rwa [packFields_eq_or] at h

/-- Settles O28: the six micro-ops of R114, the poll reading bit 5 clear and the one read of RWBUF
filling SB. -/
theorem readSectorRuns : Obligations.ReadSectorRuns := by
  intro i s c d0 d1 d2 d3 d4 d5 hi hc hs hm hidle hp ha h3
  have hx : exec (decodeCmd c) { s with prog := [], cmd := c } =
      .next (accept c (start (rdsScript s.params i)) { s with prog := [], cmd := c }) := by
    rw [hc, decodeCmd_rds, exec_rds_of_legal hi]
  rw [rdsScript_eq _ hi] at hx
  obtain ⟨t, r, hphase, hresult, -, -, hsb, hpollcnt, htrace⟩ :=
    command_run hs hm hidle hp ha hx nofun rfl (by simpa [Completes, MicroOp.isPoll] using h3)
  exact ⟨t, r, hphase, hresult, hsb, hpollcnt, htrace⟩

/-- Settles O29: the eight micro-ops of R117, the data write of SB first and each of the two polls
reading bit 5 clear; none of them loads SB. -/
theorem writeSectorRuns : Obligations.WriteSectorRuns := by
  intro i s c d0 d1 d2 d3 d4 d5 d6 d7 hi hc hs hm hidle hp ha h4 h7
  have hx : exec (decodeCmd c) { s with prog := [], cmd := c } =
      .next (accept c (start (wrsScript s.params i)) { s with prog := [], cmd := c }) := by
    rw [hc, decodeCmd_wrs, exec_wrs_of_legal hi]
  rw [wrsScript_eq _ hi] at hx
  obtain ⟨t, r, hphase, hresult, -, -, hsb, hpollcnt, htrace⟩ :=
    command_run hs hm hidle hp ha hx nofun rfl
      (by simpa [Completes, MicroOp.isPoll] using ⟨h4, h7⟩)
  exact ⟨t, r, hphase, hresult, hsb, hpollcnt.trans (countUp_iterate_succ s.params 1 0), htrace⟩

end Sys2Proof.Machine
end

section
/-! SUPPORT. The image codec (43_sector_muxer.md R121 to R123): the place of a sector's bytes, and the
step from the image at sector i to the image at sector i + 1. -/

namespace Sys2Proof.Machine

/-! ### The bytes of a sector -/

/-- Byte k of the sector whose byte k is `f k`. -/
@[simp] theorem sectorByte_sectorOf (f : Nat → Byte) (k : Fin 8) :
    sectorByte (sectorOf f) k = f k := by
  fin_cases k <;> rfl

/-- The bytes of a sector are its byte 0 to its byte 7 (R53). -/
theorem sectorBytes_eq_ofFn (x : Sector) : sectorBytes x = List.ofFn (sectorByte x) := by
  simp [sectorBytes, List.ofFn_succ, sectorByte]

@[simp] theorem length_sectorBytes (x : Sector) : (sectorBytes x).length = 8 := rfl

/-! ### One sector of an image -/

/-- Byte k of sector i is byte 8 * i + k of the image (R121). -/
theorem sectorByte_imageSector {img : List Byte} {i : Nat} (k : Fin 8)
    (h : 8 * i + k < img.length) : sectorByte (imageSector img i) k = img[8 * i + k] := by
  rw [imageSector, sectorByte_sectorOf, List.getD_eq_getElem _ _ h]

/-- An image that holds all of sector i: from byte 8 * i on it is that sector's bytes, then the
image from sector i + 1 on. -/
theorem drop_eq_sectorBytes_append {img : List Byte} {i : Nat} (h : 8 * i + 8 ≤ img.length) :
    img.drop (8 * i) = sectorBytes (imageSector img i) ++ img.drop (8 * i + 8) := by
  have htake : (img.drop (8 * i)).take 8 = sectorBytes (imageSector img i) := by
    rw [sectorBytes_eq_ofFn]
    refine List.ext_getElem (by simp; omega) fun k _ hk => ?_
    rw [List.length_ofFn] at hk
    rw [List.getElem_take, List.getElem_drop, List.getElem_ofFn,
      sectorByte_imageSector ⟨k, hk⟩ (by omega)]
  rw [← htake, ← List.drop_drop, List.take_append_drop]

/-- An image that from byte 8 * i on begins with a sector's bytes has that sector as sector i. -/
theorem imageSector_of_drop {img rest : List Byte} {i : Nat} {x : Sector}
    (h : img.drop (8 * i) = sectorBytes x ++ rest) : imageSector img i = x := by
  have hbyte : ∀ k, img.getD (8 * i + k) 0#8 = (sectorBytes x ++ rest).getD k 0#8 := by
    intro k
    rw [← h, List.getD_eq_getElem?_getD, List.getD_eq_getElem?_getD, List.getElem?_drop]
  simp only [imageSector, hbyte]
  rfl

/-! ### The codec -/

/-- Assembly is the five sectors' bytes in order (R122). -/
theorem assembleImage_eq_append (s0 s1 s2 s3 s4 : Sector) : assembleImage s0 s1 s2 s3 s4 =
    sectorBytes s0 ++ sectorBytes s1 ++ sectorBytes s2 ++ sectorBytes s3 ++ sectorBytes s4 := by
  simp only [assembleImage, List.append_assoc]

/-- Assembling the five sectors of a 40-byte image gives the image (R123). -/
theorem assembleImage_imageSector {img : List Byte} (h : img.length = 40) :
    assembleImage (imageSector img 0) (imageSector img 1) (imageSector img 2) (imageSector img 3)
      (imageSector img 4) = img := by
  have hdrop : ∀ i ≤ 4,
      sectorBytes (imageSector img i) ++ img.drop (8 * i + 8) = img.drop (8 * i) :=
    fun i hi => (drop_eq_sectorBytes_append (by omega)).symm
  have hend : img.drop 40 = [] := List.drop_of_length_le h.le
  calc assembleImage (imageSector img 0) (imageSector img 1) (imageSector img 2)
        (imageSector img 3) (imageSector img 4)
    _ = sectorBytes (imageSector img 0) ++ (sectorBytes (imageSector img 1) ++
          (sectorBytes (imageSector img 2) ++ (sectorBytes (imageSector img 3) ++
            (sectorBytes (imageSector img 4) ++ img.drop 40)))) := by
      rw [hend, List.append_nil, assembleImage]
    _ = img := by
      rw [hdrop 4 (by decide), hdrop 3 (by decide), hdrop 2 (by decide), hdrop 1 (by decide),
        hdrop 0 (by decide), List.drop_zero]

/-- Settles O52: a 40-byte image is rebuilt one sector at a time from its end, and an assembled
image from byte 8 * i on begins with sector i. -/
theorem imageCodecLaws : Obligations.ImageCodecLaws := by
  refine ⟨fun img => assembleImage_imageSector, fun s0 s1 s2 s3 s4 => ?_,
    fun s0 s1 s2 s3 s4 => ⟨assembleImage_eq_append s0 s1 s2 s3 s4, by simp [assembleImage]⟩,
    fun img i k hk => sectorByte_imageSector ⟨k, hk⟩⟩
  exact ⟨imageSector_of_drop rfl, imageSector_of_drop rfl, imageSector_of_drop rfl,
    imageSector_of_drop rfl, imageSector_of_drop rfl⟩

end Sys2Proof.Machine
end

section
/-! SUPPORT. FLASH and READ as host programs, CHECK and the capacity guard, and what READ leaves of
the host's storage (44_session_programs.md R124 to R128). -/

namespace Sys2Proof.Machine

/-! ### The programs -/

/-- READ with room for 40 bytes (R125). -/
theorem readProgram_of_room (p : Params) (dst : Nat) {cap : Nat} (h : 40 ≤ cap) :
    readProgram p dst cap =
      command p.cleanupOnError (encode .erm) ++
        (readSectorTo p.cleanupOnError 0 ++ (readSectorTo p.cleanupOnError 1 ++
          (readSectorTo p.cleanupOnError 2 ++ (readSectorTo p.cleanupOnError 3 ++
            (readSectorTo p.cleanupOnError 4 ++
              (command p.cleanupOnError (encode .etm) ++ [.copyStage dst, .ret .ok])))))) :=
  if_neg (Nat.not_lt.mpr h)

/-- READ without that room is the return of CapacityError alone (R128). -/
theorem readProgram_of_short (p : Params) (dst : Nat) {cap : Nat} (h : cap < 40) :
    readProgram p dst cap = [.ret .capacityError] := if_pos h

/-- Settles O49: the words of the commands are the packed fields, and the guard lets READ on. -/
theorem sessionPrograms : Obligations.SessionPrograms :=
  ⟨fun _ _ => rfl, fun p dst _ h => (readProgram_of_room p dst h).trans rfl⟩

/-- Settles O50: the return is the only action. -/
theorem readCapacityGuard : Obligations.ReadCapacityGuard := by
  intro s dst cap h hs hp
  exact step_of_hostReady hs (hp.trans (readProgram_of_short s.params dst h)) rfl rfl

/-! ### CHECK -/

theorem hostEffect_check_of_ok (cleanup : Bool) {s : State} (h : s.result = .ok) :
    hostEffect (.check cleanup) s = s := if_pos h

theorem hostEffect_check_of_failure (cleanup : Bool) {s : State} (h : s.result ≠ .ok) :
    hostEffect (.check cleanup) s = stopProgram cleanup s := if_neg h

/-- CHECK is never held (R88). -/
theorem step_of_check {s : State} {cleanup : Bool} {rest : List HostAction} (hs : s.sched = [])
    (hp : s.prog = .check cleanup :: rest) :
    step s = .next (hostEffect (.check cleanup) { s with prog := rest }) :=
  step_of_hostReady hs hp rfl rfl

/-- Settles O48: CHECK goes on, or stops the program, with or without cleanup. -/
theorem checkStopsTheProgram : Obligations.CheckStopsTheProgram := by
  intro s cleanup rest hs hp
  refine ⟨fun h => ?_, ?_, ?_⟩
  · rw [step_of_check hs hp, hostEffect_check_of_ok (s := { s with prog := rest }) cleanup h]
  all_goals
    rintro h rfl
    rw [step_of_check hs hp, hostEffect_check_of_failure (s := { s with prog := rest }) _ h]
    rfl

/-! ### What a move leaves of the host -/

/-- The host's actions, its storage and the end of its program are in `t` as they are in `s`. -/
structure SameHost (s t : State) : Prop where
  prog : t.prog = s.prog
  hostMem : t.hostMem = s.hostMem
  hostResult : t.hostResult = s.hostResult

theorem SameHost.refl (s : State) : SameHost s s := ⟨rfl, rfl, rfl⟩

theorem SameHost.trans {s t u : State} (h : SameHost s t) (g : SameHost t u) : SameHost s u :=
  ⟨g.prog.trans h.prog, g.hostMem.trans h.hostMem, g.hostResult.trans h.hostResult⟩

theorem execCommand_sameHost {c : Byte} {s t : State} (h : exec (decodeCmd c) s = .next t) :
    SameHost s t := by
  rcases execCommand_cases h with ⟨-, rfl⟩ | ⟨-, ⟨e, rfl⟩ | ⟨-, rfl⟩⟩ <;> exact ⟨rfl, rfl, rfl⟩

theorem advance_sameHost (s : State) : SameHost s (advance s) := by
  rcases advance_cases s with ⟨-, e⟩ | ⟨op, -, e⟩ <;> rw [e] <;> exact ⟨rfl, rfl, rfl⟩

theorem countPoll_sameHost (s : State) : SameHost s (countPoll s) := ⟨rfl, rfl, rfl⟩

theorem pollResponse_sameHost (v : Byte) (s : State) : SameHost s (pollResponse v s) := by
  rcases pollResponse_cases v s with ⟨-, e⟩ | ⟨-, -, e⟩ | ⟨-, -, e⟩ <;> rw [e]
  · exact (countPoll_sameHost s).trans (advance_sameHost _)
  · exact ⟨rfl, rfl, rfl⟩
  · exact ⟨rfl, rfl, rfl⟩

theorem engineResponse_sameHost (op : MicroOp) (ans : Option Sector) (s : State) :
    SameHost s (engineResponse op ans s) := by
  rcases engineResponse_cases op ans s with
    ⟨-, e⟩ | ⟨d, a, -, -, e⟩ | ⟨d, a, -, -, e⟩ | ⟨d, -, -, -, e⟩ <;> rw [e]
  · exact ⟨rfl, rfl, rfl⟩
  · exact pollResponse_sameHost _ s
  · exact SameHost.trans (t := loadSb d s) ⟨rfl, rfl, rfl⟩ (advance_sameHost _)
  · exact advance_sameHost s

/-- A move leaves the host as it was, or takes its next action: a command word has no effect on the
host but that it is taken. -/
theorem Stepped.host_cases {s t : State} (h : Stepped s t) :
    SameHost s t ∨ ∃ a b rest, s.prog = a :: rest ∧ resolve s.params a = some b ∧
      SameHost (hostEffect b { s with prog := rest }) t := by
  cases h with
  | rest h => exact .inl (h ▸ .refl s)
  | command a c rest hp hr hi h =>
    obtain ⟨hprog, hmem, hres⟩ := execCommand_sameHost h
    exact .inr ⟨a, .cmd c, rest, hp, hr, hprog, hmem, hres⟩
  | host a b rest hp hr hb hw h => exact .inr ⟨a, b, rest, hp, hr, h ▸ .refl _⟩
  | opcode b hb h =>
    obtain ⟨c, n, rfl, -, -⟩ := execOpcode_cases h
    exact .inl ⟨rfl, rfl, rfl⟩
  | withheld hw h => subst h; exact .inl ⟨rfl, rfl, rfl⟩
  | issued op hi hop h => subst h; exact .inl ⟨rfl, rfl, rfl⟩
  | responded req op ans hw ho hop h =>
    subst h
    exact .inl (SameHost.trans (t := deliver req ans s) ⟨rfl, rfl, rfl⟩
      (engineResponse_sameHost op ans _))

/-! ### What READ leaves of the host's storage -/

/-- The actions of READ that do not write the host's storage. -/
inductive Quiet : HostAction → Prop
  | cmd (c : Byte) : Quiet (.cmd c)
  | wait : Quiet .wait
  | check (cleanup : Bool) : Quiet (.check cleanup)
  | stsbStage (k : Nat) : Quiet (.stsbStage k)
  | ret (c : HostCode) : Quiet (.ret c)

/-- What can be left of READ before its copy: quiet actions, at their end the copy and the return
of OK, or nothing. -/
inductive ReadLeft (dst : Nat) : List HostAction → Prop
  | nil : ReadLeft dst []
  | copy : ReadLeft dst [.copyStage dst, .ret .ok]
  | cons {a : HostAction} {rest : List HostAction} (ha : Quiet a) (h : ReadLeft dst rest) :
      ReadLeft dst (a :: rest)

theorem ReadLeft.append {dst : Nat} {pre rest : List HostAction} (hpre : ∀ a ∈ pre, Quiet a)
    (h : ReadLeft dst rest) : ReadLeft dst (pre ++ rest) := by
  induction pre with
  | nil => exact h
  | cons a pre ih =>
    rw [List.forall_mem_cons] at hpre
    exact .cons hpre.1 (ih hpre.2)

theorem command_quiet (cleanup : Bool) (c : Byte) : ∀ a ∈ command cleanup c, Quiet a := by
  simp only [command, List.forall_mem_cons]
  exact ⟨.cmd c, .wait, .check cleanup, List.forall_mem_nil _⟩

theorem readSectorTo_quiet (cleanup : Bool) (i : Nat) :
    ∀ a ∈ readSectorTo cleanup i, Quiet a := by
  simp only [readSectorTo, List.forall_mem_append, List.forall_mem_singleton]
  exact ⟨command_quiet cleanup _, .stsbStage _⟩

theorem readLeft_readProgram (p : Params) (dst cap : Nat) :
    ReadLeft dst (readProgram p dst cap) := by
  have hsector := readSectorTo_quiet p.cleanupOnError
  have hcommand := command_quiet p.cleanupOnError
  rcases Nat.lt_or_ge cap 40 with h | h
  · rw [readProgram_of_short p dst h]
    exact .cons (.ret _) .nil
  · rw [readProgram_of_room p dst h]
    exact .append (hcommand _) (.append (hsector 0) (.append (hsector 1) (.append (hsector 2)
      (.append (hsector 3) (.append (hsector 4) (.append (hcommand _) .copy))))))

/-- A quiet action is no access at an address. -/
theorem Quiet.resolve {a : HostAction} (h : Quiet a) (p : Params) :
    Machine.resolve p a = some a := by cases h <;> rfl

/-- A failed CHECK leaves the cleanup, or nothing, to be done (R127). -/
theorem readLeft_stopProgram (dst : Nat) (cleanup : Bool) (s : State) :
    ReadLeft dst (stopProgram cleanup s).prog := by
  cases cleanup with
  | false => exact .nil
  | true => exact .cons (.cmd _) (.cons .wait (.cons (.ret _) .nil))

theorem stopProgram_hostMem (cleanup : Bool) (s : State) :
    (stopProgram cleanup s).hostMem = s.hostMem := by cases cleanup <;> rfl

/-- A quiet action writes no byte of the host's storage, and only quiet actions follow it. -/
theorem Quiet.hostEffect {dst : Nat} {b : HostAction} (hb : Quiet b) {s : State}
    (h : ReadLeft dst s.prog) : (Machine.hostEffect b s).hostMem = s.hostMem ∧
      ReadLeft dst (Machine.hostEffect b s).prog := by
  cases hb with
  | cmd | wait | stsbStage => exact ⟨rfl, h⟩
  | ret => exact ⟨rfl, .nil⟩
  | check cleanup =>
    by_cases hr : s.result = .ok
    · rw [hostEffect_check_of_ok cleanup hr]
      exact ⟨rfl, h⟩
    · rw [hostEffect_check_of_failure cleanup hr]
      exact ⟨stopProgram_hostMem cleanup s, readLeft_stopProgram dst cleanup s⟩

/-- Where READ to `dst` stands, the host's storage having been `m` at its start: it is still `m`, or
READ has made its copy and has to return OK, or has returned it. -/
inductive ReadStands (dst : Nat) (m : Memory) (s : State) : Prop
  | before (hmem : s.hostMem = m) (h : ReadLeft dst s.prog)
  | copied (h : s.prog = [.ret .ok])
  | returned (h : s.prog = []) (hres : s.hostResult = some .ok)

theorem SameHost.readStands {dst : Nat} {m : Memory} {s t : State} (g : SameHost s t)
    (h : ReadStands dst m s) : ReadStands dst m t := by
  cases h with
  | before hmem h => exact .before (g.hostMem.trans hmem) (g.prog ▸ h)
  | copied h => exact .copied (g.prog.trans h)
  | returned h hres => exact .returned (g.prog.trans h) (g.hostResult.trans hres)

/-- The host's next action, in each place READ may stand at. -/
theorem ReadStands.hostEffect {dst : Nat} {m : Memory} {s : State} {a b : HostAction}
    {rest : List HostAction} (h : ReadStands dst m s) (hp : s.prog = a :: rest)
    (hr : resolve s.params a = some b) :
    ReadStands dst m (Machine.hostEffect b { s with prog := rest }) := by
  cases h with
  | before hmem h =>
    rw [hp] at h
    cases h with
    | copy =>
      cases hr
      exact .copied rfl
    | cons ha h =>
      rw [ha.resolve] at hr
      cases hr
      obtain ⟨hkept, hleft⟩ := ha.hostEffect (s := { s with prog := rest }) h
      exact .before (hkept.trans hmem) hleft
  | copied h =>
    rw [hp] at h
    cases h
    cases hr
    exact .returned rfl rfl
  | returned h => rw [hp] at h; cases h

theorem Stepped.readStands {dst : Nat} {m : Memory} {s t : State} (g : Stepped s t)
    (h : ReadStands dst m s) : ReadStands dst m t := by
  rcases g.host_cases with g | ⟨a, b, rest, hp, hr, g⟩
  · exact g.readStands h
  · exact g.readStands (h.hostEffect hp hr)

/-- Settles O51: every step of READ leads from one of the places of `ReadStands` to another. -/
theorem readKeepsTheDestination : Obligations.ReadKeepsTheDestination := by
  intro n s t dst cap hp hreach
  have hstep : ∀ u v, ReadStands dst s.hostMem u → step u = .next v →
      ReadStands dst s.hostMem v := by
    intro u v h hs
    obtain ⟨sc, g⟩ := step_cases hs
    exact g.readStands (SameHost.readStands (s := u) ⟨rfl, rfl, rfl⟩ h)
  have hstart : ReadStands dst s.hostMem s := .before rfl (hp ▸ readLeft_readProgram _ _ _)
  have hkept : ReadStands dst s.hostMem t := reaches_keeps hstep hstart hreach
  cases hkept with
  | before hmem h => exact .inl hmem
  | copied h => exact .inr (.inl h)
  | returned h hres => exact .inr (.inr ⟨h, hres⟩)

end Sys2Proof.Machine
end

section
/-! SUPPORT. Whole commands against the reference controller (45_ftp_opcodes.md R131 to R143): what
each leaves of the controller of its port, opcode by opcode. -/

namespace Sys2Proof.Machine

/-! ### Runs that end somewhere -/

/-- Some number of steps leads from `s` to a state with `Q`. -/
def LeadsTo (Q : State → Prop) (s : State) : Prop := ∃ n t, Reaches n s t ∧ Q t

theorem LeadsTo.of_now {Q : State → Prop} {s : State} (h : Q s) : LeadsTo Q s := ⟨0, s, rfl, h⟩

theorem LeadsTo.of_reaches {Q : State → Prop} {n : Nat} {s : State}
    (h : ∃ t, Reaches n s t ∧ Q t) : LeadsTo Q s := ⟨n, h⟩

theorem LeadsTo.trans {Q R : State → Prop} {s : State} (h : LeadsTo Q s)
    (g : ∀ t, Q t → LeadsTo R t) : LeadsTo R s := by
  obtain ⟨n, t, r, q⟩ := h
  obtain ⟨m, u, r', q'⟩ := g t q
  exact ⟨n + m, u, reaches_trans r r', q'⟩

/-! ### Acceptance -/

/-- A legal command stands for a word of its row. -/
theorem wf_of_legal {i : Instr} (hl : i.legal = true) : i.wf = true := by
  cases i
  case ermArg | etmArg => cases hl
  all_goals rfl

/-- The word of a legal command, written to an idle block, is latched and its script started
(R91). -/
theorem exec_encode_of_legal {i : Instr} (hf : formatOf i = .cmd) (hl : i.legal = true) {u : State}
    (hu : u.phase = .idle) : exec (decodeCmd (encode i)) u =
      .next (start (commandScript u.params i) (latch (encode i) u)) := by
  have hdec : decodeAs (formatOf i) (encode i) = i := decodeAs_encode (wf_of_legal hl)
  rw [hf, decodeAs] at hdec
  have hacc : ∀ c act, accept c act u = act (latch c u) := fun _ _ => if_pos hu
  rw [hdec]
  cases i
  case ewm | erm | etm => exact congrArg Host.Outcome.next (hacc _ _)
  case rds i | wrs i =>
    have hi : indexLegal i = true := hl
    simp only [exec, execRds, execWrs, hacc, acceptIndex, commandScript, hi, if_true]
  case reservedCode0 | reservedCode6 | reservedCode7 | ermArg | etmArg => cases hl
  all_goals cases hf

/-! ### One opcode -/

/-- The controller takes control writes and has no opcode in progress (R131, R132). -/
structure Ready (p : Params) (c : Controller) : Prop where
  pwd : c.pwd = p.pwdUnlock
  busyop : c.busyop = none

/-- The opcode `i`, whatever BUSYOP holds while it is in progress at `c`, leaves `c'` (R132). -/
def OpcodeLeaves (p : Params) (i : Instr) (c c' : Controller) : Prop :=
  ∀ (s : State) (b : Option (BitVec 3)), controller s = { c with busyop := b } → s.params = p →
    ∃ m, exec i s = .next { setController c' s with draws := m }

variable {p : Params} {c c' : Controller}

theorem opcodeLeaves_writeSer (m : BitVec 5) :
    OpcodeLeaves p (.opWriteSer m) c { c with ser := m, soft := false, busyop := none } := by
  intro s b hc _
  rw [exec, execOpWriteSer, hc]
  exact ⟨s.draws, rfl⟩

theorem opcodeLeaves_softProg (m : BitVec 5) :
    OpcodeLeaves p (.opSoftProg m) c { c with soft := true, busyop := none } := by
  intro s b hc _
  rw [exec, execOpSoftProg, hc]
  exact ⟨s.draws, rfl⟩

theorem opcodeLeaves_writePl (m : BitVec 5) :
    OpcodeLeaves p (.opWritePl m) c { c with pl := c.rw, busyop := none } := by
  intro s b hc _
  rw [exec, execOpWritePl, hc]
  exact ⟨s.draws, rfl⟩

/-- The erase touches NVM and ERASED alone (R140). -/
theorem eraseEffect_eq (p : Params) (c : Controller) : eraseEffect p c = { c with
    nvm := (eraseEffect p c).nvm, erased := if c.soft then c.erased ||| c.ser else c.erased } := by
  simp only [eraseEffect, nvmWriteIf_eq]
  split <;> rfl

theorem opcodeLeaves_eraseSectors (m : BitVec 5) :
    OpcodeLeaves p (.opEraseSectors m) c { eraseEffect p c with busyop := none } := by
  intro s b hc hp
  have h : { eraseEffect p { c with busyop := b } with busyop := none } =
      { eraseEffect p c with busyop := none } := by
    simp only [eraseEffect, nvmWriteIf_eq]
    split <;> rfl
  rw [exec, execOpEraseSectors, hc, hp, finish, h]
  exact ⟨s.draws, rfl⟩

/-- The program opcode on an erased sector (R141). -/
theorem opcodeLeaves_progSector (m : BitVec 5) {i : Nat} (hs : opSelect c = i) (hi : i < 5)
    (he : c.erased.getLsbD i = true) : OpcodeLeaves p (.opProgSector m) c { nvmWrite c i c.pl with
      erased := c.erased &&& ~~~((1#5) <<< i), busyop := none } := by
  subst hs
  intro s b hc _
  have hi' : opSelect { c with busyop := b } < 5 := hi
  have he' : c.erased.getLsbD (opSelect { c with busyop := b }) = true := he
  rw [exec, execOpProgSector, hc, progEffect, if_pos hi', if_pos he']
  exact ⟨_, rfl⟩

/-- The read opcode (R135). -/
theorem opcodeLeaves_read (m : BitVec 5) {i : Nat} (hs : opSelect c = i) (hi : i < 5) :
    OpcodeLeaves p (.opRead m) c { c with rw := nvmRead c i, busyop := none } := by
  subst hs
  intro s b hc _
  have hi' : opSelect { c with busyop := b } < 5 := hi
  rw [exec, execOpRead, hc, readEffect, if_pos hi']
  exact ⟨_, rfl⟩

/-- A byte is its two fields packed (R72, R81). -/
theorem packFields_fields (w : Byte) : packFields (fieldHigh w) (fieldLow w) = w := by
  revert w; decide

/-- The CTRL_1 word of write-SER decodes to it (R82). -/
theorem decodeCtrl1_writeSer (m : BitVec 5) :
    decodeCtrl1 (ctrl1 m opcodeWriteSer) = .opWriteSer m := by
  rw [ctrl1_eq_packFields]
  exact decodeAs_encode (i := .opWriteSer m) rfl

/-! ### Micro-ops of a script -/

variable {l : Nat} {sc : List MicroOp} {pr : List HostAction} {x : Sector} {hm sg : Memory}
  {k : Nat} {s : State}

theorem addrPwd_ne_addrCtrl0 (hv : p.Valid) : p.addrPwd ≠ p.addrCtrl0 := by
  obtain ⟨-, h, -⟩ := hv
  exact h

theorem addrRwbuf_ne_addrCtrl0 (hv : p.Valid) : p.addrRwbuf ≠ p.addrCtrl0 := by
  obtain ⟨-, -, -, -, h, -⟩ := hv
  exact h

/-- Only a write that starts at CTRL_0 can be refused (93 U10). -/
theorem ctrl0Refused_of_addr (mode : EnvMode) {req : Request} (h : req.addr ≠ p.addrCtrl0) :
    ctrl0Refused mode p req c = false := by
  cases mode <;> simp [ctrl0Refused, h]

/-- A CTRL_0 write with bits 4 and 3 clear is not refused (93 U10). -/
theorem ctrl0Refused_of_bits (mode : EnvMode) {req : Request} {v : Byte} {vs : List Byte}
    (hw : req.wdata = v :: vs) (h : v &&& 0x18#8 = 0#8) : ctrl0Refused mode p req c = false := by
  cases mode <;> simp [ctrl0Refused, hw, h]

/-- The last micro-op has completed: the command has ended with OK. -/
def RunsEnded (p : Params) (l : Nat) (sc : List MicroOp) (pr : List HostAction) (x : Sector)
    (hm sg : Memory) (c : Controller) (t : State) : Prop :=
  ∃ k, RunsAt p l sc pr x hm sg .idle k c t

theorem RunsAt.nvmWf {ph : Phase} (h : RunsAt p l sc pr x hm sg ph k c s) :
    Machine.nvmWf c.nvm = true := by
  obtain ⟨-, -, hports⟩ := h.memory
  rw [← h.portGet]
  exact nvmWf_portGet l hports

/-- A write of CTRL_0 that is no submit. -/
theorem RunsAt.writeCtrl0 {v : Byte} (hv : p.Valid) (h : RunsAt p l sc pr x hm sg .issue k c s)
    (hh : HostWaits pr) (hc : Ready p c) (hop : sc[k]? = some (.w1 p.addrCtrl0 v))
    (hv5 : requestBit v = false) (hv3 : v &&& 0x18#8 = 0#8) :
    LeadsTo (RunsNext p l sc pr x hm sg k { c with c0 := v, busyop := none }) s := by
  refine .of_reaches (h.write hh hc.busyop hop rfl (ctrl0Refused_of_bits _ rfl hv3) fun n => ?_)
  rw [request, refWrite_ctrl0 hv n s.lport v hc.pwd hc.busyop, hv5]
  rfl

/-- The write of CTRL_1, the submit and the poll that run the opcode `i` (R132). -/
theorem RunsAt.runOpcode {w v : Byte} {i : Instr} (hv : p.Valid)
    (h : RunsAt p l sc pr x hm sg .issue k c s) (hh : HostWaits pr) (hc : Ready p c)
    (hctrl1 : sc[k]? = some (.w1 p.addrCtrl1 w)) (hctrl0 : sc[k + 1]? = some (.w1 p.addrCtrl0 v))
    (hpoll : sc[k + 2]? = some (.poll p.addrCtrl0)) (hv5 : requestBit v = true)
    (hv3 : v &&& 0x18#8 = 0#8) (hi : decodeCtrl1 w = i)
    (he : OpcodeLeaves p i { c with c0 := v, c1 := w } c') (hb : c'.busyop = none)
    (hw : Machine.nvmWf c'.nvm = true) : LeadsTo (RunsNext p l sc pr x hm sg (k + 2) c') s := by
  have hword := h.writeOne hh hc.busyop hctrl1 (by simp [hctrl0])
    (.inl (addrCtrl1_ne_addrCtrl0 p)) fun n => refWrite_ctrl1 hv n l w hc.pwd hc.busyop
  refine (LeadsTo.of_reaches hword).trans fun t ht => .of_reaches (n := 5) ?_
  refine ht.submit hv hh hc.busyop hc.pwd hctrl0 hpoll hv5 hv3 (fun op hop u hu hp => ?_) hb hw
  cases hop
  obtain ⟨m, hm⟩ := he u _ hu hp
  exact ⟨m, by rw [packFields_fields, hi]; exact hm⟩

/-! ### The five commands -/

/-- The controller after EnterReadMode, and where EnterWriteMode arms it (R108, R111). -/
def afterErm (p : Params) (c : Controller) : Controller :=
  { c with pwd := p.pwdUnlock, c0 := ctrl0Arm, busyop := none }

/-- The three writes that EnterWriteMode and EnterReadMode begin with: the password, then CTRL_0
cleared and armed (R108, R111). -/
theorem RunsAt.runUnlock (hv : p.Valid) (h : RunsAt p l sc pr x hm sg .issue 0 c s)
    (hh : HostWaits pr) (hb : c.busyop = none) (hpwd : sc[0]? = some (.w1 p.addrPwd p.pwdUnlock))
    (hclr : sc[1]? = some (.w1 p.addrCtrl0 ctrl0Clr))
    (harm : sc[2]? = some (.w1 p.addrCtrl0 ctrl0Arm)) :
    LeadsTo (RunsNext p l sc pr x hm sg 2 (afterErm p c)) s := by
  have hunlock := h.writeOne hh hb hpwd (by simp [hclr]) (.inl (addrPwd_ne_addrCtrl0 hv))
    fun n => refWrite_pwd hv n l _ c
  refine (LeadsTo.of_reaches hunlock).trans fun _ h1 => ?_
  refine (h1.writeCtrl0 hv hh ⟨rfl, hb⟩ hclr rfl rfl).trans fun _ h2 => ?_
  exact (h2.issue (by simp [harm])).writeCtrl0 hv hh ⟨rfl, rfl⟩ harm rfl rfl

/-- EnterReadMode (R111). -/
theorem RunsAt.runErm (hv : p.Valid) (h : RunsAt p l (ermScript p) pr x hm sg .issue 0 c s)
    (hh : HostWaits pr) (hb : c.busyop = none) :
    LeadsTo (RunsEnded p l (ermScript p) pr x hm sg (afterErm p c)) s :=
  (h.runUnlock hv hh hb rfl rfl rfl).trans fun _ h1 => .of_now (h1.idle rfl)

/-- The controller after EnterWriteMode(m) (R108). -/
def afterEwm (p : Params) (m : BitVec 5) (c : Controller) : Controller :=
  { eraseEffect p { c with
      pwd := p.pwdUnlock, c0 := ctrl0SubmitPlain, c1 := ctrl1 0 opcodeEraseSectors
      ser := m, soft := true, busyop := none } with busyop := none }

/-- EnterWriteMode(m): write-SER, soft-program and erase, each run by a submit (R108). -/
theorem RunsAt.runEwm {m : BitVec 5} (hv : p.Valid)
    (h : RunsAt p l (ewmScript p m) pr x hm sg .issue 0 c s) (hh : HostWaits pr)
    (hb : c.busyop = none) :
    LeadsTo (RunsEnded p l (ewmScript p m) pr x hm sg (afterEwm p m c)) s := by
  refine (h.runUnlock hv hh hb rfl rfl rfl).trans fun _ h1 => ?_
  replace h1 := h1.issue (by simp [ewmScript])
  refine (h1.runOpcode hv hh ⟨rfl, rfl⟩ rfl rfl rfl rfl rfl (decodeCtrl1_writeSer m)
    (opcodeLeaves_writeSer m) rfl h1.nvmWf).trans fun _ h2 => ?_
  replace h2 := h2.issue (by simp [ewmScript])
  refine (h2.runOpcode hv hh ⟨rfl, rfl⟩ rfl rfl rfl rfl rfl rfl
    (opcodeLeaves_softProg 0) rfl h2.nvmWf).trans fun _ h3 => ?_
  replace h3 := h3.issue (by simp [ewmScript])
  refine (h3.runOpcode hv hh ⟨rfl, rfl⟩ rfl rfl rfl rfl rfl rfl
    (opcodeLeaves_eraseSectors 0) rfl (eraseEffect_kept h3.nvmWf)).trans fun _ h4 => ?_
  exact .of_now (h4.idle rfl)

/-- The controller after ExitTestMode, unlocked before (R112). -/
def afterEtm (p : Params) (c : Controller) : Controller :=
  { c with pwd := Config.pwdLock, c0 := p.exitCtrl0, c1 := 0x00#8, busyop := none }

/-- A valid EXIT_CTRL0 is no submit (R41). -/
theorem requestBit_exitCtrl0 (hv : p.Valid) : requestBit p.exitCtrl0 = false := by
  obtain ⟨-, -, -, -, -, -, he⟩ := hv
  unfold requestBit
  generalize p.exitCtrl0 = v at he
  revert v; decide

/-- A byte written at CTRL_0 of a controller that takes it (R132). -/
theorem writeByte_ctrl0 (hv : p.Valid) (n : Nat) (v : Byte) (hc : Ready p c) :
    writeByte p n p.addrCtrl0 v c = ctrl0Write v c := by
  simp [writeByte, (addrPwd_ne_addrCtrl0 hv).symm, hc.pwd, hc.busyop]

/-- A byte written at CTRL_1 of a controller that takes it (R42). -/
theorem writeByte_ctrl1 (hv : p.Valid) (n : Nat) (v : Byte) (hc : Ready p c) :
    writeByte p n p.addrCtrl1 v c = { c with c1 := v } := by
  obtain ⟨-, -, hpwd, -⟩ := hv
  simp [writeByte, hpwd.symm, hc.pwd, hc.busyop, addrCtrl1_ne_addrCtrl0 p]

/-- The 2-byte write of ExitTestMode puts EXIT_CTRL0 into CTRL_0 and 0 into CTRL_1 (R54). -/
theorem refWrite_exit (hv : p.Valid) (n l : Nat) (hc : Ready p c) :
    refWrite p n ⟨l, .wr, p.addrCtrl0, 2, [p.exitCtrl0, 0x00#8]⟩ c =
      { c with c0 := p.exitCtrl0, c1 := 0x00#8, busyop := none } := by
  have hfirst : writeByte p n p.addrCtrl0 p.exitCtrl0 c =
      { c with c0 := p.exitCtrl0, busyop := none } := by
    rw [writeByte_ctrl0 hv n _ hc, ctrl0Write, requestBit_exitCtrl0 hv, hc.busyop]
    rfl
  have hready : Ready p { c with c0 := p.exitCtrl0, busyop := none } := ⟨hc.pwd, rfl⟩
  calc refWrite p n ⟨l, .wr, p.addrCtrl0, 2, [p.exitCtrl0, 0x00#8]⟩ c
    _ = writeByte p (n + 8) p.addrCtrl1 0x00#8 (writeByte p n p.addrCtrl0 p.exitCtrl0 c) :=
      if_neg (addrRwbuf_ne_addrCtrl0 hv).symm
    _ = { c with c0 := p.exitCtrl0, c1 := 0x00#8, busyop := none } := by
      rw [hfirst, writeByte_ctrl1 hv _ _ hready]

/-- ExitTestMode at a controller that takes it (R112). -/
theorem RunsAt.runEtm (hv : p.Valid) (h : RunsAt p l (etmScript p) pr x hm sg .issue 0 c s)
    (hh : HostWaits pr) (hc : Ready p c) :
    LeadsTo (RunsEnded p l (etmScript p) pr x hm sg (afterEtm p c)) s := by
  obtain ⟨hv3, -⟩ := ctrl0Safe_exitCtrl0 hv
  have hexit := h.write (op := .w2 p.addrCtrl0 p.exitCtrl0 0x00#8) hh hc.busyop rfl rfl
    (ctrl0Refused_of_bits _ rfl hv3) fun n => refWrite_exit hv n s.lport hc
  refine (LeadsTo.of_reaches hexit).trans fun t h1 => ?_
  replace h1 := h1.issue (by simp [etmScript])
  have hlock := h1.write (op := .w1 p.addrPwd Config.pwdLock) hh rfl rfl rfl
    (ctrl0Refused_of_addr _ (addrPwd_ne_addrCtrl0 hv)) fun n => refWrite_pwd hv n t.lport _ _
  refine (LeadsTo.of_reaches hlock).trans fun _ h2 => ?_
  exact .of_now (h2.idle rfl)

/-- The controller after WriteSector(i) of `x` to an erased sector (R117, R141). -/
def afterWrs (i : BitVec 5) (x : Sector) (c : Controller) : Controller :=
  { nvmWrite c i.toNat x with
    c0 := ctrl0Submit i, c1 := ctrl1 0 opcodeProgSector, rw := x, pl := x
    erased := c.erased &&& ~~~((1#5) <<< i.toNat), busyop := none }

/-- The 8-byte write of RWBUF stages SB (R131). -/
theorem refWrite_w8sb (n : Nat) (t : State) :
    refWrite p n (request t (.w8sb p.addrRwbuf)) c = { c with rw := t.sb } := by
  simp [request, refWrite, sectorBytes, sectorOfBytes]

/-- WriteSector(i): SB is staged in RWBUF, loaded and programmed (R117). -/
theorem RunsAt.runWrs {i : BitVec 5} (hv : p.Valid)
    (h : RunsAt p l (wrsScript p i) pr x hm sg .issue 0 c s) (hh : HostWaits pr) (hc : Ready p c)
    (hi : i.toNat ≤ 4) (he : c.erased.getLsbD i.toNat = true) :
    LeadsTo (RunsEnded p l (wrsScript p i) pr x hm sg (afterWrs i x c)) s := by
  obtain ⟨-, hsel, hv5, hv3⟩ := ctrl0Submit_fields hi
  have hi5 : i.toNat < 5 := by omega
  have hdata := h.write (op := .w8sb p.addrRwbuf) hh hc.busyop rfl rfl
    (ctrl0Refused_of_addr _ (addrRwbuf_ne_addrCtrl0 hv)) fun n => refWrite_w8sb n s
  rw [h.sb] at hdata
  refine (LeadsTo.of_reaches hdata).trans fun _ h1 => ?_
  replace h1 := h1.issue (by simp [wrsScript])
  refine (h1.writeCtrl0 hv hh ⟨hc.pwd, hc.busyop⟩ rfl rfl rfl).trans fun _ h2 => ?_
  replace h2 := h2.issue (by simp [wrsScript])
  refine (h2.runOpcode hv hh ⟨hc.pwd, rfl⟩ rfl rfl rfl rfl rfl rfl
    (opcodeLeaves_writePl 0) rfl h2.nvmWf).trans fun _ h3 => ?_
  replace h3 := h3.issue (by simp [wrsScript])
  refine (h3.runOpcode hv hh ⟨hc.pwd, rfl⟩ rfl rfl rfl hv5 hv3 rfl
    (opcodeLeaves_progSector 0 hsel hi5 he) rfl (nvmWf_nvmWrite i.toNat x hi5 h.nvmWf)).trans
    fun _ h4 => ?_
  exact .of_now (h4.idle rfl)

/-- The controller after ReadSector(i) (R114, R135). -/
def afterRds (i : BitVec 5) (c : Controller) : Controller :=
  { c with c0 := ctrl0Clr, c1 := ctrl1 0 opcodeRead, rw := nvmRead c i.toNat, busyop := none }

/-- ReadSector(i): the sector is read into RWBUF, and from there into SB (R114). -/
theorem RunsAt.runRds {i : BitVec 5} (hv : p.Valid)
    (h : RunsAt p l (rdsScript p i) pr x hm sg .issue 0 c s) (hh : HostWaits pr) (hc : Ready p c)
    (hi : i.toNat ≤ 4) :
    LeadsTo (RunsEnded p l (rdsScript p i) pr (nvmRead c i.toNat) hm sg (afterRds i c)) s := by
  obtain ⟨-, hsel, hv5, hv3⟩ := ctrl0Submit_fields hi
  refine (h.writeCtrl0 hv hh hc rfl rfl rfl).trans fun _ h1 => ?_
  replace h1 := h1.issue (by simp [rdsScript])
  refine (h1.runOpcode hv hh ⟨hc.pwd, rfl⟩ rfl rfl rfl hv5 hv3 rfl
    (opcodeLeaves_read 0 hsel (by omega)) rfl h1.nvmWf).trans fun _ h2 => ?_
  replace h2 := h2.issue (by simp [rdsScript])
  refine (LeadsTo.of_reaches (h2.sectorRead hv hh rfl rfl)).trans fun _ h3 => ?_
  replace h3 := h3.issue (by simp [rdsScript])
  refine (h3.writeCtrl0 hv hh ⟨hc.pwd, rfl⟩ rfl rfl rfl).trans fun _ h4 => ?_
  exact .of_now (h4.idle rfl)

end Sys2Proof.Machine
end

section
/-! SUPPORT. FLASH and then READ against the reference controller (44_session_programs.md R124,
R125, R129): the image sector by sector into the NVM, into the staging area, and into the
destination. -/

namespace Sys2Proof.Machine

variable {p : Params} {l : Nat} {sc : List MicroOp} {pr : List HostAction} {x x' : Sector}
  {hm sg : Memory} {c c' : Controller} {s : State} {b : Bool} {img : List Byte} {i : Nat}

/-! ### Commands of a session -/

/-- A command that runs to its end with OK, and the WAIT and CHECK after it (R88). -/
theorem LeadsTo.command (hstart : ∃ t, Reaches 1 s t ∧
      RunsAt p l sc (.wait :: .check b :: pr) x hm sg .issue 0 c t)
    (hrun : ∀ t, RunsAt p l sc (.wait :: .check b :: pr) x hm sg .issue 0 c t →
      LeadsTo (RunsEnded p l sc (.wait :: .check b :: pr) x' hm sg c') t) :
    LeadsTo (RunsEnded p l sc pr x' hm sg c') s := by
  refine ((LeadsTo.of_reaches hstart).trans hrun).trans fun t ht => ?_
  obtain ⟨k, hk⟩ := ht
  obtain ⟨u, r, hu⟩ := hk.waitCheck
  exact ⟨2, u, r, k, hu⟩

/-- The acceptance of a legal command between two others. -/
theorem RunsEnded.accept {j : Instr} (hf : formatOf j = .cmd) (hl : j.legal = true)
    (h : RunsEnded p l sc (.cmd (encode j) :: pr) x hm sg c s) :
    ∃ t, Reaches 1 s t ∧ RunsAt p l (commandScript p j) pr x hm sg .issue 0 c t := by
  obtain ⟨k, hk⟩ := h
  refine hk.accept _ fun u hu hp => ?_
  rw [exec_encode_of_legal hf hl hu, hp]

theorem hostWaits_wait (rest : List HostAction) : HostWaits (.wait :: rest) := .inr ⟨rest, rfl⟩

/-- ETM between two actions of a session. -/
theorem RunsEnded.etm (hv : p.Valid) (hc : Ready p c)
    (h : RunsEnded p l sc (command b (encode .etm) ++ pr) x hm sg c s) :
    LeadsTo (RunsEnded p l (etmScript p) pr x hm sg (afterEtm p c)) s :=
  .command (h.accept rfl rfl) fun _ ht => ht.runEtm hv (hostWaits_wait _) hc

/-- A sector number is the index its command word carries (R75). -/
theorem toNat_sectorIndex (hi : i < 5) : (BitVec.ofNat 5 i).toNat = i := by
  rw [BitVec.toNat_ofNat]
  omega

theorem indexLegal_sectorIndex (hi : i < 5) : indexLegal (BitVec.ofNat 5 i) = true := by
  rw [indexLegal, toNat_sectorIndex hi]
  exact decide_eq_true (by omega)

/-- One sector of FLASH (R124). -/
theorem RunsEnded.flashSector (hv : p.Valid) (hc : Ready p c) (hi : i < 5)
    (he : c.erased.getLsbD i = true)
    (h : RunsEnded p l sc (flashSector b img i ++ pr) x hm sg c s) :
    LeadsTo (RunsEnded p l (wrsScript p (BitVec.ofNat 5 i)) pr (imageSector img i) hm sg
      (afterWrs (BitVec.ofNat 5 i) (imageSector img i) c)) s := by
  have hlegal := indexLegal_sectorIndex hi
  have hindex := toNat_sectorIndex hi
  obtain ⟨k, hk⟩ := h
  refine (LeadsTo.of_reaches hk.ldsb).trans fun t ht => ?_
  have hstart := RunsEnded.accept (j := .wrs (BitVec.ofNat 5 i)) rfl hlegal ⟨k, ht⟩
  rw [commandScript, if_pos hlegal] at hstart
  exact .command hstart fun _ hu =>
    hu.runWrs hv (hostWaits_wait _) hc (by omega) (by rwa [hindex])

/-- One sector of READ (R125). -/
theorem RunsEnded.readSectorTo (hv : p.Valid) (hc : Ready p c) (hi : i < 5)
    (h : RunsEnded p l sc (readSectorTo b i ++ pr) x hm sg c s) :
    LeadsTo (RunsEnded p l (rdsScript p (BitVec.ofNat 5 i)) pr (nvmRead c i) hm
      (memWriteSector sg (8 * i) (nvmRead c i)) (afterRds (BitVec.ofNat 5 i) c)) s := by
  have hlegal := indexLegal_sectorIndex hi
  have hindex := toNat_sectorIndex hi
  have hstart := RunsEnded.accept (j := .rds (BitVec.ofNat 5 i)) rfl hlegal h
  rw [commandScript, if_pos hlegal] at hstart
  have hrun := LeadsTo.command hstart fun _ hu =>
    hu.runRds hv (hostWaits_wait _) hc (by omega)
  rw [hindex] at hrun
  refine hrun.trans fun t ht => ?_
  obtain ⟨k, hk⟩ := ht
  obtain ⟨u, r, hu⟩ := hk.stsbStage
  exact ⟨1, u, r, k, hu⟩

/-- The staging area copied to the destination (R125). -/
theorem RunsEnded.copyStage {d : Nat} (h : RunsEnded p l sc (.copyStage d :: pr) x hm sg c s) :
    LeadsTo (RunsEnded p l sc pr x (memWriteBytes hm d (memReadBytes sg 0 40)) sg c) s := by
  obtain ⟨k, hk⟩ := h
  obtain ⟨t, r, ht⟩ := hk.copyStage
  exact ⟨1, t, r, k, ht⟩

/-- The return ends the program (R124). -/
theorem RunsEnded.ret {q : HostCode} (h : RunsEnded p l sc (.ret q :: pr) x hm sg c s) :
    LeadsTo (fun t => RunsEnded p l sc [] x hm sg c t ∧ t.hostResult = some q) s := by
  obtain ⟨k, hk⟩ := h
  refine ⟨1, _, reaches_one (step_of_hostReady hk.sched hk.prog rfl rfl), ⟨k, ?_⟩, rfl⟩
  exact ⟨hk.sched, hk.answers, hk.mode, hk.params, hk.lport, hk.port, hk.memory, hk.script, hk.sp,
    rfl, hk.sb, hk.hostMem, hk.stage, hk.phase, hk.ctrl, hk.result⟩

/-- Another program is loaded (log 36). -/
theorem RunsEnded.load (pr' : List HostAction) (q : Option HostCode)
    (h : RunsEnded p l sc pr x hm sg c s) :
    RunsEnded p l sc pr' x hm sg c { s with prog := pr', hostResult := q } := by
  obtain ⟨k, hk⟩ := h
  exact ⟨k, hk.sched, hk.answers, hk.mode, hk.params, hk.lport, hk.port, hk.memory, hk.script,
    hk.sp, rfl, hk.sb, hk.hostMem, hk.stage, hk.phase, hk.ctrl, hk.result⟩

theorem RunsEnded.ended (h : RunsEnded p l sc [] x hm sg c s) : Machine.ended s = true := by
  obtain ⟨k, hk⟩ := h
  simp [Machine.ended, hk.prog, busy_eq_false hk.phase]

/-- The host's storage, the staging area and the NVM are in canonical form. -/
theorem RunsEnded.memory (h : RunsEnded p l sc pr x hm sg c s) :
    Memory.wf hm = true ∧ Memory.wf sg = true ∧ Memory.wf c.nvm = true := by
  obtain ⟨k, hk⟩ := h
  obtain ⟨hmem, hstage, -⟩ := hk.memory
  have hnvm := hk.nvmWf
  rw [nvmWf, Bool.and_eq_true] at hnvm
  exact ⟨hk.hostMem ▸ hmem, hk.stage ▸ hstage, hnvm.1⟩

/-- A session stands in front of the actions `pr`, the host's storage being `hm`; `Q` tells of the
staging area and the controller. -/
def SessionAt (p : Params) (l : Nat) (pr : List HostAction) (hm : Memory)
    (Q : Memory → Controller → Prop) (s : State) : Prop :=
  ∃ sc x sg c, RunsEnded p l sc pr x hm sg c s ∧ Q sg c

/-! ### FLASH -/

/-- The controller in the middle of FLASH: sectors below `i` hold the image's, the others are
erased. -/
structure Flashing (p : Params) (img : List Byte) (i : Nat) (c : Controller) : Prop where
  ready : Ready p c
  written : ∀ j < i, nvmRead c j = imageSector img j
  erased : ∀ j, i ≤ j → j < 5 → c.erased.getLsbD j = true

/-- EnterWriteMode(0x1F) leaves every sector erased (R140). -/
theorem flashing_afterEwm (img : List Byte) (c : Controller) :
    Flashing p img 0 (afterEwm p 0x1F#5 c) := by
  refine ⟨⟨?_, rfl⟩, fun j hj => absurd hj (Nat.not_lt_zero j), fun j _ hj => ?_⟩
  · rw [afterEwm, eraseEffect_eq]
  · have hall : c.erased ||| 0x1F#5 = BitVec.allOnes 5 := BitVec.or_allOnes
    rw [afterEwm, eraseEffect_eq]
    simp only [if_true]
    rw [hall, BitVec.getLsbD_allOnes, decide_eq_true hj]

theorem nvmRead_afterWrs (hi : i < 5) (x : Sector) (c : Controller) (j : Nat) :
    nvmRead (afterWrs (BitVec.ofNat 5 i) x c) j = nvmRead (nvmWrite c i x) j := by
  rw [afterWrs, toNat_sectorIndex hi]
  rfl

/-- WriteSector(i) uses up the erasure of sector i alone (R141). -/
theorem getLsbD_erased_afterWrs (hi : i < 5) (x : Sector) (c : Controller) {j : Nat} (hj : j < 5)
    (hij : i ≠ j) :
    (afterWrs (BitVec.ofNat 5 i) x c).erased.getLsbD j = c.erased.getLsbD j := by
  have hbit : (1#5 <<< i).getLsbD j = false := by
    rw [← BitVec.twoPow_eq, BitVec.getLsbD_twoPow]
    simp [hij]
  rw [afterWrs, toNat_sectorIndex hi, BitVec.getLsbD_and, BitVec.getLsbD_not, hbit,
    decide_eq_true hj, Bool.not_false, Bool.and_true, Bool.and_true]

/-- WriteSector(i) puts the image's sector i where it belongs and touches no other (R141). -/
theorem Flashing.afterWrs (h : Flashing p img i c) (hi : i < 5) (hw : Memory.wf c.nvm = true) :
    Flashing p img (i + 1) (afterWrs (BitVec.ofNat 5 i) (imageSector img i) c) := by
  refine ⟨⟨h.ready.pwd, rfl⟩, fun j hj => ?_, fun j hij hj => ?_⟩
  · rw [nvmRead_afterWrs hi]
    rcases Nat.eq_or_lt_of_le (Nat.lt_succ_iff.mp hj) with rfl | hlt
    · exact nvmRead_nvmWrite_same _ _ hw
    · rw [nvmRead_nvmWrite_other _ _ _ hw (by omega), h.written j hlt]
  · rw [getLsbD_erased_afterWrs hi _ _ hj (by omega), h.erased j (by omega) hj]

theorem SessionAt.flashSector (hv : p.Valid) (hi : i < 5)
    (h : SessionAt p l (flashSector b img i ++ pr) hm (fun _ => Flashing p img i) s) :
    LeadsTo (SessionAt p l pr hm fun _ => Flashing p img (i + 1)) s := by
  obtain ⟨sc, x, sg, c, hrun, hc⟩ := h
  obtain ⟨-, -, hw⟩ := hrun.memory
  exact (hrun.flashSector hv hc.ready hi (hc.erased i le_rfl hi)).trans fun t ht =>
    .of_now ⟨_, _, _, _, ht, hc.afterWrs hi hw⟩

/-- Between two sessions: no opcode in progress, the image in the NVM. -/
structure Holds (img : List Byte) (c : Controller) : Prop where
  busyop : c.busyop = none
  written : ∀ j < 5, nvmRead c j = imageSector img j

/-- FLASH against the reference controller leaves the image in the NVM (R124). -/
theorem flash_run (hv : p.Valid) (hk : MemoryKept s) (hs : s.sched = []) (ha : s.answers = [])
    (hm : s.envMode = .reference) (hp : s.params = p) (hi : s.phase = .idle)
    (hpr : s.prog = flashProgram p img) (hb : (portGet s.ctrls s.port).busyop = none) :
    LeadsTo (fun t => SessionAt p s.port [] s.hostMem (fun _ => Holds img) t ∧
      t.hostResult = some .ok) s := by
  have hstart := runsAt_accept (encode (.ewm 0x1F#5)) hs ha hm hp rfl hk hpr rfl rfl rfl hi rfl
    fun u hu hpu => by rw [exec_encode_of_legal rfl rfl hu, hpu]
  have hewm := LeadsTo.command hstart fun t ht => ht.runEwm hv (hostWaits_wait _) hb
  refine hewm.trans fun _ h => ?_
  have h0 : SessionAt p s.port _ s.hostMem (fun _ => Flashing p img 0) _ :=
    ⟨_, _, _, _, h, flashing_afterEwm img _⟩
  refine (h0.flashSector hv (by omega)).trans fun _ h1 => ?_
  refine (h1.flashSector hv (by omega)).trans fun _ h2 => ?_
  refine (h2.flashSector hv (by omega)).trans fun _ h3 => ?_
  refine (h3.flashSector hv (by omega)).trans fun _ h4 => ?_
  refine (h4.flashSector hv (by omega)).trans fun _ h5 => ?_
  obtain ⟨sc, x, sg, c, hrun, hc⟩ := h5
  refine (hrun.etm hv hc.ready).trans fun _ h6 => ?_
  exact h6.ret.trans fun t ht => .of_now ⟨⟨_, _, _, _, ht.1, rfl, hc.written⟩, ht.2⟩

/-! ### READ -/

/-- In the middle of READ: the image in the NVM, its sectors below `i` in the staging area. -/
structure Reading (p : Params) (img : List Byte) (i : Nat) (sg : Memory) (c : Controller) :
    Prop where
  ready : Ready p c
  written : ∀ j < 5, nvmRead c j = imageSector img j
  staged : ∀ j < i, memReadSector sg (8 * j) = imageSector img j

/-- ReadSector(i) and its STSB stage sector i and keep those staged before (R125). -/
theorem Reading.afterRds (h : Reading p img i sg c) (hi : i < 5) (hw : Memory.wf sg = true) :
    Reading p img (i + 1) (memWriteSector sg (8 * i) (nvmRead c i))
      (afterRds (BitVec.ofNat 5 i) c) := by
  refine ⟨⟨h.ready.pwd, rfl⟩, h.written, fun j hj => ?_⟩
  rcases Nat.eq_or_lt_of_le (Nat.lt_succ_iff.mp hj) with rfl | hlt
  · rw [memReadSector_same _ _ hw, h.written j hi]
  · rw [memReadSector_other _ _ _ hw (by omega), h.staged j hlt]

theorem SessionAt.readSectorTo (hv : p.Valid) (hi : i < 5)
    (h : SessionAt p l (readSectorTo b i ++ pr) hm (Reading p img i) s) :
    LeadsTo (SessionAt p l pr hm (Reading p img (i + 1))) s := by
  obtain ⟨sc, x, sg, c, hrun, hc⟩ := h
  obtain ⟨-, hw, -⟩ := hrun.memory
  exact (hrun.readSectorTo hv hc.ready hi).trans fun t ht =>
    .of_now ⟨_, _, _, _, ht, hc.afterRds hi hw⟩

/-- Bytes read upward, the first eight as a sector. -/
theorem memReadBytes_eq_append (m : Memory) (a n : Nat) :
    memReadBytes m a (n + 8) = sectorBytes (memReadSector m a) ++ memReadBytes m (a + 8) n := rfl

/-- The staging area with all five sectors holds the image (R122, R123). -/
theorem Reading.stage (h : Reading p img 5 sg c) (hlen : img.length = 40) :
    memReadBytes sg 0 40 = img := by
  have hsectors : memReadBytes sg 0 40 = assembleImage (memReadSector sg (8 * 0))
      (memReadSector sg (8 * 1)) (memReadSector sg (8 * 2)) (memReadSector sg (8 * 3))
      (memReadSector sg (8 * 4)) := by
    simp only [memReadBytes_eq_append, assembleImage]
    rfl
  rw [hsectors, h.staged 0 (by omega), h.staged 1 (by omega), h.staged 2 (by omega),
    h.staged 3 (by omega), h.staged 4 (by omega), assembleImage_imageSector hlen]

/-- READ against the reference controller puts the image into the destination (R125). -/
theorem read_run {dst cap : Nat} (hv : p.Valid) (hlen : img.length = 40) (hcap : 40 ≤ cap)
    (h : SessionAt p l (readProgram p dst cap) hm (fun _ => Holds img) s) :
    LeadsTo (fun t => ended t = true ∧ t.hostResult = some .ok ∧
      memReadBytes t.hostMem dst 40 = img) s := by
  rw [readProgram_of_room p dst hcap] at h
  obtain ⟨sc, x, sg, c, hrun, hc⟩ := h
  have herm := LeadsTo.command (hrun.accept rfl rfl) fun t ht =>
    ht.runErm hv (hostWaits_wait _) hc.busyop
  refine herm.trans fun _ h => ?_
  have h0 : SessionAt p l _ hm (Reading p img 0) _ :=
    ⟨_, _, _, _, h, ⟨rfl, rfl⟩, hc.written, fun j hj => absurd hj (Nat.not_lt_zero j)⟩
  refine (h0.readSectorTo hv (by omega)).trans fun _ h1 => ?_
  refine (h1.readSectorTo hv (by omega)).trans fun _ h2 => ?_
  refine (h2.readSectorTo hv (by omega)).trans fun _ h3 => ?_
  refine (h3.readSectorTo hv (by omega)).trans fun _ h4 => ?_
  refine (h4.readSectorTo hv (by omega)).trans fun _ h5 => ?_
  obtain ⟨sc, x, sg, c, hrun, hc⟩ := h5
  refine (hrun.etm hv hc.ready).trans fun _ h6 => ?_
  refine h6.copyStage.trans fun _ h7 => ?_
  refine h7.ret.trans fun t ht => .of_now ?_
  obtain ⟨hend, hres⟩ := ht
  refine ⟨hend.ended, hres, ?_⟩
  obtain ⟨k, hk⟩ := hend
  obtain ⟨hmem, -⟩ := hrun.memory
  rw [hk.hostMem, hc.stage hlen, ← hlen]
  exact memReadBytes_same dst img hmem

/-- Settles O34: FLASH leaves the image in the NVM, from which READ takes it to the destination. -/
theorem flashThenReadReturnsTheImage : Obligations.FlashThenReadReturnsTheImage := by
  intro img s dst cap hlen hcap hv hk hs ha hm hi hpr hb
  obtain ⟨n, t, r, ⟨sc, x, sg, c, hrun, hc⟩, hres⟩ := flash_run hv hk hs ha hm rfl hi hpr hb
  have hload : SessionAt _ _ (readProgram s.params dst cap) _ (fun _ => Holds img) _ :=
    ⟨sc, x, sg, c, hrun.load _ none, hc⟩
  exact ⟨n, t, r, hrun.ended, hres, read_run hv hlen hcap hload⟩

end Sys2Proof.Machine
end

section
/-! SUPPORT. The FTP opcodes (45_ftp_opcodes.md R132, R135 to R142): what each leaves of the
controller of LPORT, byte by byte and flag by flag, and what none of them touches. -/

namespace Sys2Proof.Machine

variable {p : Params} {c : Controller}

/-! ### The opcode in progress -/

/-- The environment's turn with an opcode in progress executes it, whoever `sched` names (R132). -/
theorem step_of_envMoves_opcode {s u : State} {op : BitVec 3} (he : EnvMoves s u)
    (hm : u.envMode = .reference) (hb : (controller u).busyop = some op) :
    step s = exec (decodeCtrl1 (packFields (fieldHigh (controller u).c1) op)) u := by
  have ho : opcodeInProgress u = some (packFields (fieldHigh (controller u).c1) op) := by
    simp [opcodeInProgress, hm, hb]
  rw [step_of_envMoves he]
  simp only [envTurn, ho, runMove]

/-- Settles O7: the two ways in which the environment comes to move. -/
theorem stepRunsTheOpcodeInProgress : Obligations.StepRunsTheOpcodeInProgress :=
  fun s _ hm hb => ⟨fun he => step_of_envMoves_opcode (.inl ⟨he, rfl⟩) hm hb,
    fun sc hs => step_of_envMoves_opcode (u := { s with sched := sc }) (.inr ⟨sc, hs, rfl⟩) hm hb⟩

/-- Settles O59: an opcode replaces the controller of LPORT and uses free values, nothing else. -/
theorem opcodeFrame : Obligations.OpcodeFrame := by
  intro b s t h
  obtain ⟨c, n, rfl, -, -⟩ := execOpcode_cases h
  exact ⟨rfl, fun _ => rfl, fun q hq => portGet_setController c hq⟩

/-- Settles O60: both arms are the refusal. -/
theorem unspecifiedOpcodesRefused : Obligations.UnspecifiedOpcodesRefused :=
  fun _ _ => ⟨rfl, rfl⟩

/-! ### Registers -/

/-- The controller of LPORT once an opcode has completed. -/
theorem controller_finish (c : Controller) (s : State) :
    controller (finish c s) = { c with busyop := none } := controller_setController _ s

/-- Free values used up change no controller. -/
theorem controller_bump (s : State) : controller (bump s) = controller s := rfl

/-- Settles O55: `readEffect` with the sector select written out. -/
theorem opReadLoadsTheSector : Obligations.OpReadLoadsTheSector := by
  intro _ s
  refine ⟨_, (readEffect s.draws (controller s)).rw, rfl, fun h => if_pos h, ?_⟩
  rw [controller_bump, controller_finish]
  rfl

/-- Settles O56: each opcode finishes with its registers replaced. -/
theorem registerOpcodes : Obligations.RegisterOpcodes :=
  fun _ s => ⟨⟨_, rfl, controller_finish _ s⟩, ⟨_, rfl, controller_finish _ s⟩,
    ⟨_, rfl, controller_finish _ s⟩⟩

/-! ### Erase -/

/-- A well-formed NVM is in canonical form. -/
theorem wf_of_nvmWf {m : Memory} (h : nvmWf m = true) : Memory.wf m = true := by
  rw [nvmWf, Bool.and_eq_true] at h
  exact h.1

/-- Every byte of a filled sector. -/
theorem getD_sectorBytes_fill (v : Byte) {k : Nat} (hk : k < 8) :
    (sectorBytes (Sector.fill v)).getD k 0#8 = v := by
  have hbytes : sectorBytes (Sector.fill v) = List.replicate 8 v := rfl
  rw [hbytes, List.getD_replicate _ hk]

/-- A byte after sector `i` is filled under a mask. -/
theorem memRead_nvmWriteIf_fill (mask : BitVec 5) (i : Nat) (v : Byte) (a : Nat)
    (h : nvmWf c.nvm = true) : memRead (nvmWriteIf mask i (Sector.fill v) c).nvm a =
      if a / 8 = i ∧ mask.getLsbD (a / 8) = true then v else memRead c.nvm a := by
  by_cases hm : mask.getLsbD i = true
  · have hwritten : (nvmWriteIf mask i (Sector.fill v) c).nvm =
        memWriteSector c.nvm (sectorBase i) (Sector.fill v) := by rw [nvmWriteIf, if_pos hm]; rfl
    rw [hwritten, memRead_memWriteSector _ _ _ (wf_of_nvmWf h), sectorBase]
    by_cases ha : a / 8 = i
    · rw [if_pos (by omega), if_pos ⟨ha, ha ▸ hm⟩, getD_sectorBytes_fill v (by omega)]
    · rw [if_neg (by omega), if_neg fun g => ha g.1]
  · rw [nvmWriteIf, if_neg hm, if_neg]
    rintro ⟨rfl, g⟩
    exact hm g

/-- A byte after the erase: ERASED_BYTE in the sectors of SER if SOFT is set, else as before
(R140). -/
theorem memRead_eraseEffect (a : Nat) (h : nvmWf c.nvm = true) :
    memRead (eraseEffect p c).nvm a =
      if c.soft = true ∧ a < 40 ∧ c.ser.getLsbD (a / 8) = true then p.erasedByte
      else memRead c.nvm a := by
  have kept (i : Nat) (hi : i < 5) {d : Controller} (hd : nvmWf d.nvm = true) :=
    nvmWf_nvmWriteIf c.ser i (Sector.fill p.erasedByte) hi hd
  have h0 := kept 0 (by omega) h
  have h1 := kept 1 (by omega) h0
  have h2 := kept 2 (by omega) h1
  have h3 := kept 3 (by omega) h2
  by_cases hs : c.soft = true
  · simp only [eraseEffect, hs, if_true, memRead_nvmWriteIf_fill _ _ _ _ h3,
      memRead_nvmWriteIf_fill _ _ _ _ h2, memRead_nvmWriteIf_fill _ _ _ _ h1,
      memRead_nvmWriteIf_fill _ _ _ _ h0, memRead_nvmWriteIf_fill _ _ _ _ h, true_and]
    by_cases hm : c.ser.getLsbD (a / 8) = true
    · have hlt : a / 8 < 5 := BitVec.lt_of_getLsbD hm
      have ha : a < 40 := by omega
      simp only [hm, and_true, ha, if_true]
      interval_cases a / 8 <;> simp
    · simp [hm]
  · simp [eraseEffect, hs]

/-- A sector after the erase. -/
theorem nvmRead_eraseEffect {i : Nat} (hi : i < 5) (h : nvmWf c.nvm = true) :
    nvmRead (eraseEffect p c) i =
      if c.soft = true ∧ c.ser.getLsbD i = true then Sector.fill p.erasedByte
      else nvmRead c i := by
  have hbyte (k : Nat) (hk : k < 8) : memRead (eraseEffect p c).nvm (sectorBase i + k) =
      if c.soft = true ∧ c.ser.getLsbD i = true then p.erasedByte
      else memRead c.nvm (sectorBase i + k) := by
    have hdiv : (sectorBase i + k) / 8 = i := by rw [sectorBase]; omega
    have hlt : sectorBase i + k < 40 := by rw [sectorBase]; omega
    simp only [memRead_eraseEffect _ h, hdiv, hlt, true_and]
  simp only [nvmRead, memReadSector, sectorOf]
  rw [hbyte 0 (by omega), hbyte 1 (by omega), hbyte 2 (by omega), hbyte 3 (by omega),
    hbyte 4 (by omega), hbyte 5 (by omega), hbyte 6 (by omega), hbyte 7 (by omega)]
  split <;> rfl

/-- Settles O57: the NVM byte by byte, the flags and registers by `eraseEffect_eq`. -/
theorem opEraseSectors : Obligations.OpEraseSectors := by
  intro _ s hk
  obtain ⟨-, -, hports⟩ := hk
  refine ⟨_, rfl, fun a => ?_, ?_⟩
  · rw [controller_finish]
    exact memRead_eraseEffect a (nvmWf_portGet _ hports)
  · rw [controller_finish, eraseEffect_eq]

/-! ### Program -/

/-- The program opcode touches NVM and ERASED alone (R141). -/
theorem progEffect_eq (n : Nat) (c : Controller) : progEffect n c = { c with
    nvm := (progEffect n c).nvm, erased := (progEffect n c).erased } := by
  simp only [progEffect, looseNvm]
  generalize freeNvm n = m
  split
  · split <;> rfl
  · rfl

/-- The program opcode on one of the five sectors: PL on an erased sector, free values on another
(R141; log 12). -/
theorem progEffect_nvm (n : Nat) (h : opSelect c < 5) : (progEffect n c).nvm =
    memWriteSector c.nvm (sectorBase (opSelect c))
      (if c.erased.getLsbD (opSelect c) then c.pl else Config.freeSector n) := by
  rw [progEffect, if_pos h]
  split <;> rfl

theorem progEffect_erased (n : Nat) (h : opSelect c < 5) : (progEffect n c).erased =
    if c.erased.getLsbD (opSelect c) then c.erased &&& ~~~((1#5) <<< opSelect c)
    else c.erased := by
  rw [progEffect, if_pos h]
  split <;> rfl

/-- One flag cleared. -/
theorem getLsbD_and_not_shiftLeft_one (m : BitVec 5) (k j : Nat) :
    (m &&& ~~~((1#5) <<< k)).getLsbD j = (m.getLsbD j && decide (j ≠ k)) := by
  rw [← BitVec.twoPow_eq, BitVec.getLsbD_and, BitVec.getLsbD_not, BitVec.getLsbD_twoPow]
  by_cases hj : j < 5
  · by_cases hjk : k = j <;> simp [hj, hjk, eq_comm]
  · simp [BitVec.getLsbD_of_ge m j (by omega)]

/-- Settles O58: `progEffect` on an erased sector, on another, and off the sector. -/
theorem opProgSector : Obligations.OpProgSector := by
  intro _ s sel hk hsel
  obtain ⟨-, -, hports⟩ := hk
  have hwf : Memory.wf (controller s).nvm = true := wf_of_nvmWf (nvmWf_portGet _ hports)
  replace hsel : sel = opSelect (controller s) := hsel
  subst hsel
  refine ⟨_, rfl, ?_, fun hlt => ⟨fun he => ⟨?_, ?_, fun i hi => ?_⟩, fun he => ?_,
    fun a ha => ?_⟩⟩ <;> rw [controller_bump, controller_finish]
  · rw [progEffect_eq]
  · rw [nvmRead, progEffect_nvm _ hlt, if_pos he]
    exact memReadSector_same _ _ hwf
  · rw [progEffect_erased _ hlt, if_pos he, getLsbD_and_not_shiftLeft_one]
    simp
  · rw [progEffect_erased _ hlt, if_pos he, getLsbD_and_not_shiftLeft_one]
    simp [hi]
  · simp [progEffect_erased _ hlt, he]
  · rw [progEffect_nvm _ hlt, memRead_memWriteSector _ _ _ hwf]
    exact if_neg ha

end Sys2Proof.Machine
end

section
/-! SUPPORT. The reference controller on the bus (45_ftp_opcodes.md R131 to R133): the password gate,
the submit, and the CTRL_0 values it refuses. -/

namespace Sys2Proof.Machine

variable {p : Params} {c : Controller}

/-! ### The password gate -/

/-- A control byte at a controller whose password register does not hold PWD_UNLOCK (R131). -/
theorem writeByte_of_locked (hv : p.Valid) (n : Nat) {a : Byte} (v : Byte)
    (ha : a = p.addrCtrl0 ∨ a = p.addrCtrl1) (hc : c.pwd ≠ p.pwdUnlock) :
    writeByte p n a v c = c := by
  obtain ⟨-, hpwd0, hpwd1, -⟩ := hv
  have hne : a ≠ p.addrPwd := by
    rcases ha with rfl | rfl
    · exact hpwd0.symm
    · exact hpwd1.symm
  rw [writeByte, if_neg hne, if_pos ha, if_pos hc]

/-- A write that starts at a control register goes byte by byte (R54). -/
theorem refWrite_control (hv : p.Valid) (n l len : Nat) {a : Byte} (vs : List Byte)
    (ha : a = p.addrCtrl0 ∨ a = p.addrCtrl1) :
    refWrite p n ⟨l, .wr, a, len, vs⟩ c = writeBytes p n a vs c := by
  obtain ⟨-, -, -, -, hrw0, hrw1, -⟩ := hv
  refine if_neg ?_
  rcases ha with rfl | rfl
  · exact hrw0.symm
  · exact hrw1.symm

/-- The 2-byte write at CTRL_0 of a locked controller (R131). -/
theorem refWrite_both_of_locked (hv : p.Valid) (n l : Nat) (v w : Byte)
    (hc : c.pwd ≠ p.pwdUnlock) : refWrite p n ⟨l, .wr, p.addrCtrl0, 2, [v, w]⟩ c = c := by
  calc refWrite p n ⟨l, .wr, p.addrCtrl0, 2, [v, w]⟩ c
    _ = writeByte p (n + 8) p.addrCtrl1 w (writeByte p n p.addrCtrl0 v c) :=
      refWrite_control hv n l 2 [v, w] (.inl rfl)
    _ = c := by
      rw [writeByte_of_locked hv n v (.inl rfl) hc, writeByte_of_locked hv _ w (.inr rfl) hc]

/-- The 8-byte write of RWBUF (R43, R131). -/
theorem refWrite_rwbuf (n l : Nat) (x : Sector) :
    refWrite p n ⟨l, .wr, p.addrRwbuf, 8, sectorBytes x⟩ c = { c with rw := x } := if_pos rfl

/-- Settles O53: the password register, RWBUF, and the three control writes at a locked
controller. -/
theorem passwordGate : Obligations.PasswordGate := by
  intro p n l v w x c hv
  refine ⟨refWrite_pwd hv n l v c, refWrite_rwbuf n l x, fun hc => ⟨?_, ?_, ?_⟩⟩
  · exact (refWrite_control hv n l 1 [v] (.inl rfl)).trans
      (writeByte_of_locked hv n v (.inl rfl) hc)
  · exact (refWrite_control hv n l 1 [v] (.inr rfl)).trans
      (writeByte_of_locked hv n v (.inr rfl) hc)
  · exact refWrite_both_of_locked hv n l v w hc

/-! ### The submit -/

/-- While an opcode is in progress CTRL_0 reads with the request bit set (R133). -/
theorem ctrl0Read_request (h : c.busyop.isSome = true) : (ctrl0Read c).getLsbD 5 = true := by
  simp [ctrl0Read, h]

/-- A CTRL_0 value with the request bit clear reads back while no opcode is in progress (R133). -/
theorem ctrl0Read_of_idle (hb : c.busyop = none) (h : c.c0.getLsbD 5 = false) :
    ctrl0Read c = c.c0 := by
  simp only [ctrl0Read, hb, Option.isSome_none, Bool.false_eq_true, if_false]
  generalize c.c0 = v at h ⊢
  revert v
  decide

/-- A CTRL_0 value that is no submit, at a controller that takes it, is only stored (R132). -/
theorem ctrl0Write_of_noRequest {v : Byte} (h : v.getLsbD 5 = false) :
    ctrl0Write v c = { c with c0 := v } := by
  simp only [ctrl0Write, requestBit, h, Bool.false_eq_true, if_false]

/-- The 2-byte write at CTRL_0 that is no submit sets both control registers (R54, R132). -/
theorem refWrite_both_of_noRequest (hv : p.Valid) (n l : Nat) {v : Byte} (w : Byte)
    (hc : Ready p c) (h : v.getLsbD 5 = false) :
    refWrite p n ⟨l, .wr, p.addrCtrl0, 2, [v, w]⟩ c = { c with c0 := v, c1 := w } := by
  have hready : Ready p { c with c0 := v } := ⟨hc.pwd, hc.busyop⟩
  calc refWrite p n ⟨l, .wr, p.addrCtrl0, 2, [v, w]⟩ c
    _ = writeByte p (n + 8) p.addrCtrl1 w (writeByte p n p.addrCtrl0 v c) :=
      refWrite_control hv n l 2 [v, w] (.inl rfl)
    _ = { c with c0 := v, c1 := w } := by
      rw [writeByte_ctrl0 hv n v hc, ctrl0Write_of_noRequest h, writeByte_ctrl1 hv _ w hready]

/-- A CTRL_0 write with bit 4 or bit 3 set at the unlocked reference controller has no step
(93 U10; log 14). -/
theorem step_of_ctrl0Refused {s u : State} {op : MicroOp} {d : Sector} {v : Byte}
    {vs : List Byte} {len : Nat} (he : EnvMoves s u) (hn : opcodeInProgress u = none)
    (hm : u.envMode = .reference) (hp : u.phase = .wait) (hop : u.script[u.sp]? = some op)
    (ho : u.out = some ⟨u.lport, .wr, u.params.addrCtrl0, len, v :: vs⟩)
    (ha : envAnswer u ⟨u.lport, .wr, u.params.addrCtrl0, len, v :: vs⟩ = .ok d)
    (hc : (controller u).pwd = u.params.pwdUnlock) (h : v &&& 0x18#8 ≠ 0#8) :
    step s = .refused .ctrl0BitsUnspecified := by
  rw [step_of_envMoves he, envTurn_of_none hn, hp]
  simp [waitTurn_of_answer ho hop, ha, respondOk, ctrl0Refused, hm, hc, h]

/-- Settles O54: a submit, a value that is only stored, a CTRL_1 write, and the refusal. -/
theorem submitStartsTheOpcode : Obligations.SubmitStartsTheOpcode := by
  refine ⟨fun p n l v w c hv hpwd hb _ => ⟨fun h5 => ?_, fun h5 => ⟨?_, ?_, ?_⟩, ?_⟩, ?_⟩
  · have hsubmit : refWrite p n ⟨l, .wr, p.addrCtrl0, 1, [v]⟩ c =
        { c with c0 := v, busyop := some (fieldLow c.c1) } :=
      (refWrite_ctrl0 hv n l v hpwd hb).trans (by rw [requestBit, h5, if_pos rfl])
    intro c'
    exact ⟨hsubmit, ctrl0Read_request (by simp only [c', hsubmit, Option.isSome_some])⟩
  · exact (refWrite_control hv n l 1 [v] (.inl rfl)).trans
      ((writeByte_ctrl0 hv n v ⟨hpwd, hb⟩).trans (ctrl0Write_of_noRequest h5))
  · exact ctrl0Read_of_idle hb h5
  · exact refWrite_both_of_noRequest hv n l w ⟨hpwd, hb⟩ h5
  · exact refWrite_ctrl1 hv n l w hpwd hb
  · intro s u op d v vs len he hn hm hp req hop ho ha hc h
    exact step_of_ctrl0Refused he hn hm hp hop ho ha hc h

end Sys2Proof.Machine
end

section
/-! SUPPORT. One command against the reference controller, from its acceptance to its end
(45_ftp_opcodes.md R143), and the mode commands at a controller in any state. -/

namespace Sys2Proof.Machine

variable {p : Params} {l : Nat} {sc : List MicroOp} {pr : List HostAction} {x x' : Sector}
  {hm sg : Memory} {k : Nat} {c c' : Controller} {s : State}

/-! ### The command alone -/

theorem hostWaits_nil : HostWaits [] := .inl rfl

/-- A legal command as the host's only action is accepted by an idle block, and its script is at its
first micro-op (R91). -/
theorem runsAt_of_command {i : Instr} (hf : formatOf i = .cmd) (hl : i.legal = true)
    (hk : MemoryKept s) (hs : s.sched = []) (ha : s.answers = []) (hm : s.envMode = .reference)
    (hi : s.phase = .idle) (hp : s.prog = [.cmd (encode i)]) :
    LeadsTo (RunsAt s.params s.port (commandScript s.params i) [] s.sb s.hostMem s.stage .issue 0
      (portGet s.ctrls s.port)) s :=
  .of_reaches (runsAt_accept (encode i) hs ha hm rfl rfl hk hp rfl rfl rfl hi rfl
    fun u hu hpu => by rw [exec_encode_of_legal hf hl hu, hpu])

/-- The words of the commands with an operand, as the spec writes them (R87). -/
theorem encode_ewm (m : BitVec 5) : encode (.ewm m) = (m.setWidth 8 <<< 3) ||| 0x01#8 :=
  packFields_eq_or m 1

theorem encode_rds (i : BitVec 5) : encode (.rds i) = (i.setWidth 8 <<< 3) ||| 0x04#8 :=
  packFields_eq_or i 4

theorem encode_wrs (i : BitVec 5) : encode (.wrs i) = (i.setWidth 8 <<< 3) ||| 0x05#8 :=
  packFields_eq_or i 5

/-- What the end of a run says of the state it ends in. -/
theorem RunsEnded.holds (h : RunsEnded p l sc pr x hm sg c s) :
    s.phase = .idle ∧ s.result = .ok ∧ s.params = p ∧ s.sb = x ∧ portGet s.ctrls l = c := by
  obtain ⟨k, hk⟩ := h
  exact ⟨hk.phase, hk.result hk.phase, hk.params, hk.sb, hk.portGet⟩

/-- A controller whose password register holds PWD_UNLOCK is not locked (R155). -/
theorem locked_eq_false_iff : locked p c = false ↔ c.pwd = p.pwdUnlock := by
  rw [locked, bne_eq_false_iff_eq]

theorem locked_eq_true_iff : locked p c = true ↔ c.pwd ≠ p.pwdUnlock := bne_iff_ne

/-! ### EnterWriteMode -/

theorem afterEwm_pwd (p : Params) (m : BitVec 5) (c : Controller) :
    (afterEwm p m c).pwd = p.pwdUnlock := by
  rw [afterEwm, eraseEffect_eq]

theorem afterEwm_erased (p : Params) (m : BitVec 5) (c : Controller) :
    (afterEwm p m c).erased = c.erased ||| m := by
  rw [afterEwm, eraseEffect_eq]
  rfl

/-- EnterWriteMode(m) erases the sectors of `m` and no other (R140). -/
theorem nvmRead_afterEwm (m : BitVec 5) {i : Nat} (hi : i < 5) (hw : nvmWf c.nvm = true) :
    nvmRead (afterEwm p m c) i =
      if m.getLsbD i = true then Sector.fill p.erasedByte else nvmRead c i :=
  calc nvmRead (afterEwm p m c) i
    _ = if true = true ∧ m.getLsbD i = true then Sector.fill p.erasedByte else nvmRead c i :=
      nvmRead_eraseEffect (c := { c with
        pwd := p.pwdUnlock, c0 := ctrl0SubmitPlain, c1 := ctrl1 0 opcodeEraseSectors
        ser := m, soft := true, busyop := none }) hi hw
    _ = if m.getLsbD i = true then Sector.fill p.erasedByte else nvmRead c i := by
      simp only [true_and]

/-- Settles O30: the run of EWM, and what `afterEwm` holds sector by sector. -/
theorem referenceErase : Obligations.ReferenceErase := by
  intro m s c hc hv hk hs ha hm hi hp hb
  rw [hc, ← encode_ewm] at hp
  obtain ⟨n, t, r, hend⟩ := (runsAt_of_command rfl rfl hk hs ha hm hi hp).trans
    fun _ h => h.runEwm hv hostWaits_nil hb
  obtain ⟨hphase, hresult, hparams, -, hctrl⟩ := hend.holds
  obtain ⟨-, -, hports⟩ := hk
  refine ⟨n, t, r, hphase, hresult, ?_, fun i hi => ?_⟩
  · rw [hctrl, hparams, locked_eq_false_iff, afterEwm_pwd]
  · rw [hctrl, nvmRead_afterEwm m hi (nvmWf_portGet _ hports), afterEwm_erased,
      BitVec.getLsbD_or]
    exact ⟨fun hmi => by simp [hmi], fun hmi => by simp [hmi]⟩

/-! ### WriteSector and ReadSector -/

/-- Settles O31: the run of WRS, and the sector written by `afterWrs`. -/
theorem referenceWrite : Obligations.ReferenceWrite := by
  intro i s c hi hc hv hk hs ha hm hidle hp hb hl he
  rw [hc, ← encode_wrs] at hp
  have hlegal : indexLegal i = true := decide_eq_true hi
  have hstart := runsAt_of_command (i := .wrs i) rfl hlegal hk hs ha hm hidle hp
  rw [commandScript, if_pos hlegal] at hstart
  obtain ⟨n, t, r, hend⟩ := hstart.trans fun _ h =>
    h.runWrs hv hostWaits_nil ⟨locked_eq_false_iff.mp hl, hb⟩ hi he
  obtain ⟨hphase, hresult, -, hsb, hctrl⟩ := hend.holds
  obtain ⟨-, -, hports⟩ := hk
  have hwf : Memory.wf (portGet s.ctrls s.port).nvm = true := wf_of_nvmWf (nvmWf_portGet _ hports)
  refine ⟨n, t, r, hphase, hresult, hsb, ?_, fun j hj => ?_⟩ <;> rw [hctrl]
  · exact nvmRead_nvmWrite_same i.toNat s.sb hwf
  · exact nvmRead_nvmWrite_other i.toNat j s.sb hwf hj.symm

/-- Settles O32: the run of RDS, whose end leaves the sector in SB. -/
theorem referenceRead : Obligations.ReferenceRead := by
  intro i s c hi hc hv hk hs ha hm hidle hp hb hl
  rw [hc, ← encode_rds] at hp
  have hlegal : indexLegal i = true := decide_eq_true hi
  have hstart := runsAt_of_command (i := .rds i) rfl hlegal hk hs ha hm hidle hp
  rw [commandScript, if_pos hlegal] at hstart
  obtain ⟨n, t, r, hend⟩ := hstart.trans fun _ h =>
    h.runRds hv hostWaits_nil ⟨locked_eq_false_iff.mp hl, hb⟩ hi
  obtain ⟨hphase, hresult, -, hsb, hctrl⟩ := hend.holds
  exact ⟨n, t, r, hphase, hresult, hsb, by rw [hctrl]; rfl⟩

/-! ### An opcode in progress at acceptance -/

/-- The CTRL_1 words of the two opcodes without an effect (R138, R139). -/
theorem decodeCtrl1_readPl (h : BitVec 5) : decodeCtrl1 (packFields h 3#3) = .opReadPl h :=
  decodeAs_encode (i := .opReadPl h) rfl

theorem decodeCtrl1_readSer (h : BitVec 5) : decodeCtrl1 (packFields h 4#3) = .opReadSer h :=
  decodeAs_encode (i := .opReadSer h) rfl

/-- An opcode that is neither read-PL nor read-SER completes, whatever the controller holds, and
leaves the password register as it was (R132, R135 to R142). -/
theorem exec_opcode_pwd {h : BitVec 5} {op : BitVec 3} (h3 : op ≠ 3#3) (h4 : op ≠ 4#3)
    (s : State) : ∃ t, exec (decodeCtrl1 (packFields h op)) s = .next t ∧
      (controller t).pwd = (controller s).pwd := by
  unfold decodeCtrl1
  rw [fieldLow_packFields]
  split
  case h_3 => exact absurd rfl h3
  case h_4 => exact absurd rfl h4
  case h_5 =>
    refine ⟨_, rfl, ?_⟩
    rw [controller_finish, eraseEffect_eq]
  case h_6 =>
    refine ⟨_, rfl, ?_⟩
    rw [controller_bump, controller_finish, progEffect_eq]
  case h_8 =>
    refine ⟨_, rfl, ?_⟩
    rw [controller_bump, controller_finish]
    rfl
  all_goals
    refine ⟨_, rfl, ?_⟩
    rw [controller_finish]

/-- Another controller at the same point of the run. -/
theorem RunsAt.setController {ph : Phase} (h : RunsAt p l sc pr x hm sg ph k c s)
    (hw : Machine.nvmWf c'.nvm = true) (n : Nat) :
    RunsAt p l sc pr x hm sg ph k c' { Machine.setController c' s with draws := n } := by
  obtain ⟨hmem, hstage, hports⟩ := h.memory
  exact ⟨h.sched, h.answers, h.mode, h.params, h.lport, h.port,
    ⟨hmem, hstage, setController_kept hw hports⟩, h.script, h.sp, h.prog, h.sb, h.hostMem, h.stage,
    h.phase, controller_setController c' s, h.result⟩


/-- The opcode in progress completes before the command's first transaction (R132; log 35). -/
theorem RunsAt.finishOpcode (h : RunsAt p l sc pr x hm sg .issue k c s) (hh : HostWaits pr)
    (hop : ∀ op, c.busyop = some op → op ≠ 3#3 ∧ op ≠ 4#3) :
    LeadsTo (fun t => ∃ c', RunsAt p l sc pr x hm sg .issue k c' t ∧ c'.busyop = none ∧
      c'.pwd = c.pwd) s := by
  cases hb : c.busyop with
  | none => exact .of_now ⟨c, h, hb, rfl⟩
  | some op =>
    obtain ⟨h3, h4⟩ := hop op hb
    obtain ⟨t, ht, hpwd⟩ := exec_opcode_pwd (h := fieldHigh (controller s).c1) h3 h4 s
    have hstep := (step_of_envMoves_opcode (.inl ⟨h.envMovesNext hh, rfl⟩) h.mode
      (by rw [h.ctrl, hb])).trans ht
    obtain ⟨c', n, rfl, hnvm, hbusy⟩ := execOpcode_cases ht
    have hctrl : controller { Machine.setController c' s with draws := n } = c' :=
      controller_setController c' s
    rw [hctrl, h.ctrl] at hpwd
    rw [h.ctrl] at hnvm
    exact ⟨1, _, reaches_one hstep, c', h.setController (hnvm h.nvmWf) n, hbusy, hpwd⟩

/-- ExitTestMode at a locked controller: the write of CTRL_0 and CTRL_1 is ignored (R131, R112). -/
theorem RunsAt.runEtmLocked (hv : p.Valid) (h : RunsAt p l (etmScript p) pr x hm sg .issue 0 c s)
    (hh : HostWaits pr) (hb : c.busyop = none) (hc : c.pwd ≠ p.pwdUnlock) :
    LeadsTo (RunsEnded p l (etmScript p) pr x hm sg { c with pwd := Config.pwdLock }) s := by
  obtain ⟨hv3, -⟩ := ctrl0Safe_exitCtrl0 hv
  have hexit := h.write (op := .w2 p.addrCtrl0 p.exitCtrl0 0x00#8) hh hb rfl rfl
    (ctrl0Refused_of_bits _ rfl hv3) fun n => refWrite_both_of_locked hv n s.lport _ _ hc
  refine (LeadsTo.of_reaches hexit).trans fun t h1 => ?_
  replace h1 := h1.issue (by simp [etmScript])
  have hlock := h1.write (op := .w1 p.addrPwd Config.pwdLock) hh hb rfl rfl
    (ctrl0Refused_of_addr _ (addrPwd_ne_addrCtrl0 hv)) fun n => refWrite_pwd hv n t.lport _ _
  refine (LeadsTo.of_reaches hlock).trans fun _ h2 => ?_
  exact .of_now (h2.idle rfl)

/-- EnterReadMode at a controller in any state (R111, R155). -/
theorem RunsAt.runErmAny (hv : p.Valid) (h : RunsAt p l (ermScript p) pr x hm sg .issue 0 c s)
    (hh : HostWaits pr) (hop : ∀ op, c.busyop = some op → op ≠ 3#3 ∧ op ≠ 4#3) :
    LeadsTo (fun t => ∃ c', RunsEnded p l (ermScript p) pr x hm sg c' t ∧
      c'.pwd = p.pwdUnlock ∧ c'.c0 = 0xC0#8) s :=
  (h.finishOpcode hh hop).trans fun _ ⟨_, h1, hb, _⟩ =>
    (h1.runErm hv hh hb).trans fun _ h2 => .of_now ⟨_, h2, rfl, rfl⟩

/-- ExitTestMode at a controller in any state (R112, R155). -/
theorem RunsAt.runEtmAny (hv : p.Valid) (h : RunsAt p l (etmScript p) pr x hm sg .issue 0 c s)
    (hh : HostWaits pr) (hop : ∀ op, c.busyop = some op → op ≠ 3#3 ∧ op ≠ 4#3) :
    LeadsTo (fun t => ∃ c', RunsEnded p l (etmScript p) pr x hm sg c' t ∧ c'.pwd = 0x00#8 ∧
      (c.pwd = p.pwdUnlock → c'.c0 = p.exitCtrl0 ∧ c'.c1 = 0x00#8)) s := by
  refine (h.finishOpcode hh hop).trans fun _ ⟨c1, h1, hb, hpwd⟩ => ?_
  by_cases hc : c.pwd = p.pwdUnlock
  · exact (h1.runEtm hv hh ⟨hpwd.trans hc, hb⟩).trans fun _ h2 =>
      .of_now ⟨_, h2, rfl, fun _ => ⟨rfl, rfl⟩⟩
  · exact (h1.runEtmLocked hv hh hb (hpwd ▸ hc)).trans fun _ h2 =>
      .of_now ⟨_, h2, rfl, fun h => absurd h hc⟩

/-- Settles O33: the runs of ERM and ETM at a controller in any state, and the refusal of the two
opcodes without an effect. -/
theorem referenceModeCommands : Obligations.ReferenceModeCommands := by
  refine ⟨fun s hv hk hs ha hm hi hop => ⟨fun hp => ?_, fun hp => ?_⟩,
    fun s u he hm => ⟨fun hb => ?_, fun hb => ?_⟩⟩
  · obtain ⟨n, t, r, c, hend, hpwd, hc0⟩ :=
      (runsAt_of_command (i := .erm) rfl rfl hk hs ha hm hi hp).trans
        fun _ h => h.runErmAny hv hostWaits_nil hop
    obtain ⟨hphase, hresult, hparams, -, hctrl⟩ := hend.holds
    rw [← hctrl] at hpwd hc0
    exact ⟨n, t, r, hphase, hresult, locked_eq_false_iff.mpr (hparams ▸ hpwd), hc0⟩
  · obtain ⟨n, t, r, c, hend, hpwd, hexit⟩ :=
      (runsAt_of_command (i := .etm) rfl rfl hk hs ha hm hi hp).trans
        fun _ h => h.runEtmAny hv hostWaits_nil hop
    obtain ⟨hphase, hresult, hparams, -, hctrl⟩ := hend.holds
    rw [← hctrl] at hpwd hexit
    refine ⟨n, t, r, hphase, hresult, hpwd, fun hne => ?_, fun hl => ?_⟩
    · rw [locked_eq_true_iff, hpwd, hparams]
      exact hne.symm
    · exact hexit (locked_eq_false_iff.mp hl)
  · rw [step_of_envMoves_opcode he hm hb, decodeCtrl1_readPl]
    rfl
  · rw [step_of_envMoves_opcode he hm hb, decodeCtrl1_readSer]
    rfl

end Sys2Proof.Machine
end

section
/-! SUPPORT. The abort, the block at rest, and the recorded model faults (60_exceptions.md R145,
R148 to R152, R160). -/

namespace Sys2Proof.Machine

/-! ### The abort and the block at rest -/

/-- Settles O24: whatever the micro-op, the abort after the delivery of the `error`. -/
theorem errorAborts : Obligations.ErrorAborts := by
  intro s u op req he hn hp ho hop ha
  rw [step_of_answeredError he hn hp ho hop ha, deliver_eq]
  rfl

/-- A host with no action to come is not ready. -/
theorem hostReady_of_nil {s : State} (hp : s.prog = []) : hostReady s = false := by
  simp only [hostReady, hp]

/-- Settles O10: the move is the environment's, whose turn at an idle block changes nothing. -/
theorem idleBlockStaysIdle : Obligations.IdleBlockStaysIdle := by
  intro s hi hp hs ho
  rw [step_of_envMovesNext ⟨hs, hostReady_of_nil hp⟩ ho, hi]

/-! ### The recorded model faults

Each of the four ways to record a model fault sets one mark or none and clears none. -/

/-- Every model fault of `r` is one of `q`. -/
structure Recorded.Within (r q : Recorded) : Prop where
  portUnwritten : r.portUnwritten = true → q.portUnwritten = true
  sbUnwritten : r.sbUnwritten = true → q.sbUnwritten = true
  sbReadUnwritten : r.sbReadUnwritten = true → q.sbReadUnwritten = true
  sbReadBusy : r.sbReadBusy = true → q.sbReadBusy = true

theorem Recorded.Within.refl (r : Recorded) : r.Within r := ⟨id, id, id, id⟩

theorem Recorded.Within.trans {r q w : Recorded} (h : r.Within q) (g : q.Within w) : r.Within w :=
  ⟨g.portUnwritten ∘ h.portUnwritten, g.sbUnwritten ∘ h.sbUnwritten,
    g.sbReadUnwritten ∘ h.sbReadUnwritten, g.sbReadBusy ∘ h.sbReadBusy⟩

theorem within_recordPort (s : State) : s.recorded.Within (recordPort s) := by
  unfold recordPort
  split
  · exact .refl _
  · exact ⟨fun _ => rfl, id, id, id⟩

theorem within_recordIssue (op : MicroOp) (s : State) : s.recorded.Within (recordIssue op s) := by
  cases op
  case w8sb a =>
    simp only [recordIssue]
    split
    · exact .refl _
    · exact ⟨id, fun _ => rfl, id, id⟩
  all_goals exact .refl _

theorem within_recordSbRead (mask : BitVec 8) (s : State) :
    s.recorded.Within (recordSbRead mask s) := by
  unfold recordSbRead
  split
  · split
    · exact .refl _
    · exact ⟨id, id, fun _ => rfl, id⟩
  · exact ⟨id, id, id, fun _ => rfl⟩

theorem within_recordRead (r : HostReg) (s : State) : s.recorded.Within (recordRead r s) := by
  cases r
  case port => exact within_recordPort s
  all_goals exact .refl _

/-! ### What every move keeps -/

/-- The parameters are in `t` as they are in `s`, and every model fault recorded in `s` is recorded
in `t`. -/
structure FaultsStay (s t : State) : Prop where
  params : t.params = s.params
  recorded : s.recorded.Within t.recorded

theorem FaultsStay.refl (s : State) : FaultsStay s s := ⟨rfl, .refl _⟩

theorem FaultsStay.trans {s t u : State} (h : FaultsStay s t) (g : FaultsStay t u) :
    FaultsStay s u :=
  ⟨g.params.trans h.params, h.recorded.trans g.recorded⟩

/-- The acceptance of a command may record a PORT unwritten (R91, R148). -/
theorem execCommand_faultsStay {c : Byte} {s t : State} (h : exec (decodeCmd c) s = .next t) :
    FaultsStay s t := by
  rcases execCommand_cases h with ⟨-, rfl⟩ | ⟨-, ⟨e, rfl⟩ | ⟨-, rfl⟩⟩
  · exact .refl _
  · exact ⟨rfl, within_recordPort s⟩
  · exact ⟨rfl, within_recordPort s⟩

theorem stopProgram_faultsStay (cleanup : Bool) (s : State) :
    FaultsStay s (stopProgram cleanup s) := by
  cases cleanup <;> exact ⟨rfl, .refl _⟩

/-- Dropping the command that runs records nothing (R162). -/
theorem dropCommand_faultsStay (s : State) : FaultsStay s (dropCommand s) := by
  unfold dropCommand
  split <;> exact ⟨rfl, .refl _⟩

/-- A host action may record a read of SB or of PORT (R24, R165); a reset clears no recorded fault
(R148, R161). -/
theorem hostEffect_faultsStay (b : HostAction) (s : State) : FaultsStay s (hostEffect b s) := by
  cases b
  case read r => exact ⟨rfl, within_recordRead r s⟩
  case stsb | stsbStage | readSb => exact ⟨rfl, within_recordSbRead _ s⟩
  case reset => exact (dropCommand_faultsStay s).trans (u := resetBlock _) ⟨rfl, .refl _⟩
  case limit v => simp only [hostEffect]; split <;> exact ⟨rfl, .refl _⟩
  case check cleanup =>
    simp only [hostEffect]
    split
    · exact .refl s
    · exact stopProgram_faultsStay cleanup s
  case copyStage d => simp only [hostEffect]; exact ⟨rfl, .refl _⟩
  all_goals exact ⟨rfl, .refl _⟩

theorem advance_faultsStay (s : State) : FaultsStay s (advance s) := by
  rcases advance_cases s with ⟨-, e⟩ | ⟨op, -, e⟩ <;> rw [e] <;> exact ⟨rfl, .refl _⟩

theorem countPoll_faultsStay (s : State) : FaultsStay s (countPoll s) := ⟨rfl, .refl _⟩

theorem pollResponse_faultsStay (v : Byte) (s : State) : FaultsStay s (pollResponse v s) := by
  rcases pollResponse_cases v s with ⟨-, e⟩ | ⟨-, -, e⟩ | ⟨-, -, e⟩ <;> rw [e]
  · exact (countPoll_faultsStay s).trans (advance_faultsStay _)
  · exact ⟨rfl, .refl _⟩
  · exact ⟨rfl, .refl _⟩

/-- No response records or clears a model fault (R96 to R99). -/
theorem engineResponse_faultsStay (op : MicroOp) (ans : Option Sector) (s : State) :
    FaultsStay s (engineResponse op ans s) := by
  rcases engineResponse_cases op ans s with
    ⟨-, e⟩ | ⟨d, a, -, -, e⟩ | ⟨d, a, -, -, e⟩ | ⟨d, -, -, -, e⟩ <;> rw [e]
  · exact ⟨rfl, .refl _⟩
  · exact pollResponse_faultsStay _ s
  · exact FaultsStay.trans (t := loadSb d s) ⟨rfl, .refl _⟩ (advance_faultsStay _)
  · exact advance_faultsStay s

/-- Every kind of move keeps the parameters and the recorded faults. -/
theorem Stepped.faultsStay {s t : State} (h : Stepped s t) : FaultsStay s t := by
  cases h with
  | rest h => exact h ▸ .refl s
  | command a c rest hp hr hi h =>
    obtain ⟨hparams, hrecorded⟩ := execCommand_faultsStay h
    exact ⟨hparams, hrecorded⟩
  | host a b rest hp hr hb hw h =>
    subst h
    obtain ⟨hparams, hrecorded⟩ := hostEffect_faultsStay b { s with prog := rest }
    exact ⟨hparams, hrecorded⟩
  | opcode b hb h =>
    obtain ⟨c, n, rfl, -, -⟩ := execOpcode_cases h
    exact ⟨rfl, .refl _⟩
  | withheld hw h => subst h; exact ⟨rfl, .refl _⟩
  | issued op hi hop h => subst h; exact ⟨rfl, within_recordIssue op s⟩
  | responded req op ans hw ho hop h =>
    subst h
    exact FaultsStay.trans (t := deliver req ans s) ⟨rfl, .refl _⟩
      (engineResponse_faultsStay op ans _)

/-- Settles O41: neither the parameters nor the recorded faults depend on `sched`, and every kind of
move keeps both. -/
theorem recordedFaultsStay : Obligations.RecordedFaultsStay := by
  intro s t h
  obtain ⟨sc, hm⟩ := step_cases h
  obtain ⟨hparams, hport, hsb, hread, hbusy⟩ := hm.faultsStay
  exact ⟨hparams, hport, hsb, hread, hbusy⟩

end Sys2Proof.Machine
end

section
/-! SUPPORT. The block's reset as a host action, and the machine right after reset
(70_reset_and_hazards.md R161 to R163). -/

namespace Sys2Proof.Machine

/-! ### The reset values -/

/-- The machine right after reset has its block at the reset values. -/
theorem resetBlock_reset : resetBlock State.reset = State.reset := rfl

/-- A reset block is idle with RESULT = OK (R25, R161). -/
theorem status_resetBlock (s : State) : status (resetBlock s) = 0x00#8 := by
  calc status (resetBlock s) = status State.reset := rfl
    _ = 0x00#8 := rfl

/-- Settles O36: whatever the block held, its reset values meet the invariant where the memories are
canonical, as the empty ones after reset are. -/
theorem invAtReset : Obligations.InvAtReset := by
  rw [Obligations.InvAtReset, ← resetBlock_reset]
  exact inv_resetBlock ⟨rfl, rfl, rfl⟩

/-! ### The command that a reset drops -/

/-- The block's reset as the host's next action, whether or not a command runs. -/
theorem step_of_reset {s : State} {rest : List HostAction} (hs : s.sched = [])
    (hp : s.prog = .reset :: rest) :
    step s = .next (resetBlock (dropCommand { s with prog := rest })) :=
  step_of_hostReady hs hp rfl rfl

/-- Dropping the command that runs keeps the parameters and the host's storage and actions. -/
theorem dropCommand_frame (s : State) :
    (dropCommand s).params = s.params ∧ (dropCommand s).hostMem = s.hostMem ∧
      (dropCommand s).stage = s.stage ∧ (dropCommand s).prog = s.prog := by
  unfold dropCommand
  split <;> exact ⟨rfl, rfl, rfl, rfl⟩

/-- An idle block has no command to drop. -/
theorem dropCommand_of_idle {s : State} (h : s.phase = .idle) : dropCommand s = s := by
  simp only [dropCommand, h]

/-- In PHASE = ISSUE no transaction is outstanding, and none enters the trace (R162). -/
theorem dropCommand_trace_of_issue {s : State} (h : s.phase = .issue) :
    (dropCommand s).trace = s.trace := by
  simp only [dropCommand, h, bump_trace, setController_trace]

/-- The outstanding transaction enters the trace with no response (R162, log 21). -/
theorem dropCommand_trace_of_wait {s : State} {r : Request} (h : s.phase = .wait)
    (ho : s.out = some r) : (dropCommand s).trace = s.trace ++ [⟨r, none⟩] := by
  simp only [dropCommand, h, ho, bump_trace, setController_trace, Option.toList_some,
    List.map_cons, List.map_nil]

/-- Settles O46: the command that runs is dropped, then the block takes its reset values, which
touches neither the trace nor a controller. -/
theorem blockReset : Obligations.BlockReset := by
  intro s rest hs hp
  obtain ⟨hparams, hmem, hstage, hprog⟩ := dropCommand_frame { s with prog := rest }
  obtain ⟨-, hothers⟩ := dropCommand_oneTransaction { s with prog := rest }
  refine ⟨_, step_of_reset hs hp, rfl, status_resetBlock _, rfl, rfl, rfl, rfl, rfl, rfl, rfl,
    hparams, hmem, hstage, hprog, hothers, fun hi => ?_, fun hi => ?_, fun r hw ho => ?_⟩
  · exact dropCommand_trace_of_issue (s := { s with prog := rest }) hi
  · rw [dropCommand_of_idle (s := { s with prog := rest }) hi]
    exact ⟨rfl, rfl⟩
  · exact dropCommand_trace_of_wait (s := { s with prog := rest }) hw ho

/-! ### The first command after reset -/

/-- No command word is refused: each is latched or ignored (R91). -/
theorem exec_decodeCmd_next (c : Byte) (s : State) : ∃ t, exec (decodeCmd c) s = .next t := by
  unfold decodeCmd
  (repeat' split) <;> exact ⟨_, rfl⟩

/-- An idle block latches every command word that reaches it (R91). -/
theorem exec_decodeCmd_latched {c : Byte} {s t : State} (hi : s.phase = .idle)
    (h : exec (decodeCmd c) s = .next t) : t.lcmd = c ∧ t.cmd = s.cmd := by
  rcases execCommand_cases h with ⟨hn, -⟩ | ⟨-, ⟨e, rfl⟩ | ⟨-, rfl⟩⟩
  · exact absurd hi hn
  all_goals exact ⟨encode_decodeCmd c, rfl⟩

/-- An idle block starts the script of a legal command word (R91). -/
theorem exec_decodeCmd_started {c : Byte} {s t : State} (hi : s.phase = .idle)
    (hl : (decodeCmd c).legal = true) (h : exec (decodeCmd c) s = .next t) :
    t.phase = .issue ∧ t.sp = 0 := by
  have hstart := exec_encode_of_legal (formatOf_decodeCmd c) hl hi
  rw [encode_decodeCmd, h] at hstart
  cases hstart
  exact ⟨rfl, rfl⟩

/-- Settles O47: the fields are State.reset's own, and the step that takes a CMD write executes the
word at an idle block (O6). -/
theorem resetState : Obligations.ResetState := by
  refine ⟨rfl, rfl, rfl, rfl, rfl, rfl, rfl, rfl, rfl, rfl, rfl, by decide, fun c => ?_⟩
  obtain ⟨t, ht⟩ := exec_decodeCmd_next c { State.reset with prog := [], cmd := c }
  obtain ⟨hlcmd, hcmd⟩ := exec_decodeCmd_latched rfl ht
  have hstep := (stepRunsTheCommandWritten { State.reset with prog := [.cmd c] } c [] rfl rfl).1 rfl
  exact ⟨t, hstep.trans ht, hlcmd, hcmd, fun hl => exec_decodeCmd_started rfl hl ht⟩

end Sys2Proof.Machine
end
